-- ==== Sys2Proof/Word.lean ====
section
/-! DEFINITION. The data the units move: bytes, 32-bit patterns, and the two cases of emitted hex letters
(spec/00_scope.md R8, R9). A text is a sequence of bytes read as ASCII (R10), so it is a list of bytes too. -/

namespace Sys2Proof

/-- A byte, 0 to 255, unsigned (R9). -/
abbrev Byte := BitVec 8

/-- The 32-bit pattern HENC takes (R201). -/
abbrev Word32 := BitVec 32

/-- `HEX_CASE` of R8: the case of the letters A to F in hex text the block emits. -/
inductive HexCase where
  | lower
  | upper
  deriving DecidableEq, Repr, Inhabited

end Sys2Proof
end

