-- ==== Sys2Proof/Machine/Bytes.lean ====
section
/-! DEFINITION. Pure functions on bytes and byte sequences: the hex digit helpers of spec/00_scope.md R14, the
two checksum folds of spec/40_checksum.md (R131, R135), hex text (spec/42_frame_hex.md R192, R193), the base-16
numeral of R177, big-endian splitting (spec/20_memory.md R60), and the two buffer primitives of R81. -/

namespace Sys2Proof.Machine

/-! ### Text helpers (R14) -/

/-- `ishex(c)` of R14: one of "0" to "9", "A" to "F", "a" to "f". -/
def ishex (c : Byte) : Bool :=
  (48 ≤ c.toNat && c.toNat ≤ 57) || (65 ≤ c.toNat && c.toNat ≤ 70) || (97 ≤ c.toNat && c.toNat ≤ 102)

/-- `hexval(c)` of R14: 0 to 9 for the digits, 10 to 15 for either case of A to F. It is used only on hex digits. -/
def hexval (c : Byte) : Nat :=
  if c.toNat ≤ 57 then c.toNat - 48 else if c.toNat ≤ 70 then c.toNat - 55 else c.toNat - 87

/-- `hexdig(n)` of R14, for `n` in 0 to 15. -/
def hexdig (hc : HexCase) (n : Nat) : Byte :=
  if n ≤ 9 then BitVec.ofNat 8 (48 + n)
  else match hc with
    | .lower => BitVec.ofNat 8 (87 + n)
    | .upper => BitVec.ofNat 8 (55 + n)

/-! ### Checksum folds (R131, R135) -/

/-- The exclusive-or fold of R131; the fold of nothing is `00` (R132 a). -/
def xorFold (s : List Byte) : Byte := s.foldl (fun acc b => acc ^^^ b) 0

/-- The sum modulo 256 of R135; the carry out of bit 7 is dropped at every step (R23). -/
def addFold (s : List Byte) : Byte := s.foldl (fun acc b => acc + b) 0

/-- The fold a VERIFY strategy bit selects: 0 XOR, 1 additive (R118, R139). -/
def foldOf (g : Bool) (s : List Byte) : Byte := if g then addFold s else xorFold s

/-- VERIFY of R139, as a function. -/
def verifies (g : Bool) (s : List Byte) (c : Byte) : Bool := foldOf g s == c

/-! ### Hex text (R192, R193) -/

/-- HEXLIFY of R192: two characters per byte, high nibble first. -/
def hexText (hc : HexCase) : List Byte → List Byte
  | [] => []
  | b :: bs => hexdig hc (b.toNat / 16) :: hexdig hc (b.toNat % 16) :: hexText hc bs

/-- The loop of UNHEX (R193), on a text already known to be well-formed. -/
def pairBytes : List Byte → List Byte
  | a :: b :: t => BitVec.ofNat 8 (16 * hexval a + hexval b) :: pairBytes t
  | _ => []

/-- The base-16 numeral of R177: most significant digit first, on unbounded naturals. -/
def hexNumeral (t : List Byte) : Nat := t.foldl (fun v c => 16 * v + hexval c) 0

/-! ### Byte order (R60) -/

/-- A 16-bit value as its two bytes, most significant first (R60, R96). -/
def split16 (n : BitVec 16) : List Byte := [n.extractLsb' 8 8, n.extractLsb' 0 8]

/-- A 32-bit pattern as its four bytes, most significant first (R60). -/
def split32 (w : Word32) : List Byte :=
  [w.extractLsb' 24 8, w.extractLsb' 16 8, w.extractLsb' 8 8, w.extractLsb' 0 8]

/-- Two bytes, most significant first, as a 16-bit value. -/
def join16 (hi lo : Byte) : BitVec 16 := BitVec.ofNat 16 (256 * hi.toNat + lo.toNat)

/-- Four bytes, most significant first, as a 32-bit pattern. -/
def join32 (b3 b2 b1 b0 : Byte) : Word32 :=
  BitVec.ofNat 32 (16777216 * b3.toNat + 65536 * b2.toNat + 256 * b1.toNat + b0.toNat)

/-! ### Buffers (R81) -/

/-- `MemRead(SPACE, a, n)` of R81 on a buffer whose valid length is `len`; `none` beyond it. -/
def memRead (buf : List Byte) (len a n : Nat) : Option (List Byte) :=
  if a + n ≤ len then some ((buf.drop a).take n) else none

/-- `MemWrite(SPACE, a, n, v)` of R81: the bytes of `v` from index `a` on, the others kept. -/
def memWrite (buf : List Byte) (a : Nat) (v : List Byte) : List Byte :=
  buf.take a ++ v ++ buf.drop (a + v.length)

/-- `strip(r)` of R175: leading and trailing bytes of the strip set removed, bytes in the middle kept. -/
def stripBytes (set : List Byte) (r : List Byte) : List Byte :=
  ((r.dropWhile fun b => set.contains b).reverse.dropWhile fun b => set.contains b).reverse

end Sys2Proof.Machine
end

