-- ==== Sys2Proof/Machine/Event.lean ====
section
/-! DEFINITION. The events: which agent moves next, and with what input (spec/00_scope.md R15;
spec/43_bus_arbiter.md R226, R243). They are plain data; State holds a list of them. -/

namespace Sys2Proof.Machine

/-- The micro-steps of a checksum unit (spec/40_checksum.md R133, R137). -/
inductive Micro where
  | clear
  | absorb (b : Byte)
  /-- clear and absorb requested in the same step: the clear is applied first -/
  | clearAbsorb (b : Byte)
  | read
  deriving DecidableEq, Repr, Inhabited

/-- What a requester can read at a result port (spec/10_state.md R24 to R28, R35, R39). -/
inductive PortReg where
  /-- `MemRead(FBUF, a, n)` -/
  | fbuf (a n : Nat)
  /-- `MemRead(HBUF, a, n)` -/
  | hbuf (a n : Nat)
  /-- `MemRead(HTXT, a, n)` -/
  | htxt (a n : Nat)
  | flen
  | feErr
  | fdKind
  | fdVal
  | fdRest
  | fdCmd
  | fdSel
  | fdNp
  | fdPar
  | fdErr
  | hvalid
  | heErr
  | hdVerdict
  | hdErr
  /-- `RES[i].valid` -/
  | resValid (i : Nat)
  /-- `RES[i].err` -/
  | resErr (i : Nat)
  /-- `RES[i].ovf` -/
  | resOvf (i : Nat)
  /-- `RES[i].bytes` -/
  | resBytes (i : Nat)
  deriving DecidableEq, Repr, Inhabited

/-- One move of one agent. An event whose agent has no enabled step changes nothing (log 6). -/
inductive Ev where
  /-- the next operation of the command stream is presented: by requester context `i` (`some i`), or by a context that
  uses no port of MA (`none`; log 35) -/
  | op (who : Option Nat)
  /-- requester context `i` takes the next step of the host sequence it is in (R260) -/
  | hostStep (i : Nat)
  /-- MA grants the lock to requester `i` (R226, R227) -/
  | grant (i : Nat)
  /-- MA takes the step of its phase (R228 to R235) -/
  | ma
  /-- MA aborts (R236) -/
  | abort
  /-- the tick source (R41); the watchdog and its feed timer count it (R275) -/
  | tick
  /-- the audio module appends a byte to `RXFIFO` (R42) -/
  | peer (b : Byte)
  /-- the serialiser sends the oldest byte of the transmit path (R43, R243) -/
  | serialise
  /-- the UART changes `TxReady()` (R12) -/
  | txReady (b : Bool)
  /-- the UART asserts or deasserts `io_fault` (R45) -/
  | ioFault (b : Bool)
  /-- a micro-step of XG (R133) -/
  | xgMicro (m : Micro)
  /-- a micro-step of SG (R137) -/
  | sgMicro (m : Micro)
  /-- a context (as in `op`) reads a result port (R39, R81) -/
  | portRead (who : Option Nat) (r : PortReg)
  /-- the bridge host's bytes reach the bridge line as one burst (R272) -/
  | bridgeBurst (bs : List Byte)
  /-- the WeightReplyService task takes its next step (R270) -/
  | serve
  /-- an edge on the trigger input (R267, R268) -/
  | edge
  /-- the trigger interrupt is taken (R267, R274) -/
  | takeIrq
  /-- the host arms the watchdog and starts the feed timer (R323) -/
  | armWatchdog
  /-- a full interrupt-level freeze begins or ends (R276) -/
  | irqFreeze (b : Bool)
  /-- the device is reset (R320) -/
  | reset
  deriving DecidableEq, Repr, Inhabited

end Sys2Proof.Machine
end

