-- ==== Sys2Proof/Config.lean ====
section
/-! DEFINITION. The parameters of spec/00_scope.md R7 and R8, and the free values of the model. `Config.raw` and the
free values are opaque constants without a body: nothing is known of them. `Config.params` is `Config.raw` when that
meets the constraints of R8 and the illustrative instance otherwise, so it ranges over the instances R8 allows and a
proof can use of it only the constraints (log 4). -/

namespace Sys2Proof

/-- The named parameters of R8. -/
structure Params where
  /-- `CODE_PAUSE` -/
  codePause : Byte
  /-- `CODE_NEXT` -/
  codeNext : Byte
  /-- `CODE_PREV` -/
  codePrev : Byte
  /-- `CODE_VOLUP` -/
  codeVolup : Byte
  /-- `CODE_VOLDN` -/
  codeVoldn : Byte
  /-- `CODE_STANDBY` -/
  codeStandby : Byte
  /-- `CODE_RESET` -/
  codeReset : Byte
  /-- `CODE_STOP` -/
  codeStop : Byte
  /-- `CODE_QSTATE` -/
  codeQstate : Byte
  /-- `CODE_QQTY` -/
  codeQqty : Byte
  /-- `CODE_SETLOOP` -/
  codeSetloop : Byte
  /-- `CODE_SELTRK` -/
  codeSeltrk : Byte
  /-- `ACK_PREFIX` -/
  ackPrefix : List Byte
  /-- `STRIP_SET`, as a list of its bytes -/
  stripSet : List Byte
  /-- `HEX_CASE` -/
  hexCase : HexCase
  /-- `N_REQ` -/
  nReq : Nat
  /-- `TICK_W` -/
  tickW : Nat
  /-- `TICK_UNIT`; no rule reads it -/
  tickUnit : Nat
  /-- `IDLE_GAP` in ticks; `none` is infinite -/
  idleGap : Option Nat
  /-- `RESP_MAX`; `none` is infinite -/
  respMax : Option Nat
  /-- `TXF_MAX`; `none` is infinite, which R8's table does not list for it and D22 does (log 4) -/
  txfMax : Option Nat
  /-- `TXT_MAX`; `none` is infinite -/
  txtMax : Option Nat
  /-- `WD_WINDOW`, in ticks (log 23) -/
  wdWindow : Nat
  /-- `WD_FEED`, in ticks (log 23) -/
  wdFeed : Nat
  /-- the requester number the trigger handler uses (R262, log 17) -/
  trigReq : Nat
  /-- the response timeout the trigger handler uses (R262, log 17) -/
  trigTmo : Nat
  deriving DecidableEq, Repr, Inhabited

/-- `START` of R7. -/
def Config.startByte : Byte := 0x7E

/-- `END` of R7. -/
def Config.endByte : Byte := 0xEF

/-- `CODE_PLAY` of R7. -/
def Config.codePlay : Byte := 0x01

/-- `CODE_SETVOL` of R7. -/
def Config.codeSetvol : Byte := 0x31

/-- `HDR` of R7. -/
def Config.hexHeader : List Byte := [0x01, 0x01]

/-- `READ_WEIGHT_REQ` of R7. -/
def Config.readWeightReq : List Byte := [0x01, 0x01, 0x01, 0x03]

/-- `FRAME_MAX` of R7. -/
def Config.frameMax : Nat := 7

/-- The fourteen command codes in the order of `op_sel` (R104). -/
def Params.codes (c : Params) : List Byte :=
  [Config.codePlay, c.codePause, c.codeNext, c.codePrev, c.codeVolup, c.codeVoldn, c.codeStandby, c.codeReset,
   c.codeStop, c.codeQstate, c.codeQqty, Config.codeSetvol, c.codeSetloop, c.codeSeltrk]

/-- A finite capacity or gap is at least `m`; an infinite one always is. -/
def Params.atLeast (m : Nat) : Option Nat → Bool
  | none => true
  | some n => m ≤ n

/-- The constraints of R8 (and of R37, R262 on the host's parameters). -/
def Params.valid (c : Params) : Bool :=
  decide c.codes.Nodup && !c.codes.contains Config.startByte && !c.codes.contains Config.endByte
  && c.ackPrefix.any (fun b => !Machine.ishex b)
  && c.stripSet.all (fun b => !Machine.ishex b && !c.ackPrefix.contains b)
  && decide (1 ≤ c.nReq) && decide (2 ≤ c.tickW)
  && Params.atLeast 1 c.idleGap && Params.atLeast 1 c.respMax && Params.atLeast 7 c.txfMax
  && Params.atLeast 8 c.txtMax && decide (c.wdFeed < c.wdWindow)
  && decide (c.trigReq < c.nReq) && decide (c.trigTmo < 2 ^ c.tickW)

/-- The illustrative instance the test vectors use (spec/95_test_vectors.md; K1 and K2 of
spec/93_implementation_defined.md): no claim about the hardware, used by the tests. -/
def Params.illustrative : Params where
  codePause := 0x02
  codeNext := 0x03
  codePrev := 0x04
  codeVolup := 0x05
  codeVoldn := 0x06
  codeStandby := 0x07
  codeReset := 0x09
  codeStop := 0x0E
  codeQstate := 0x10
  codeQqty := 0x15
  codeSetloop := 0x33
  codeSeltrk := 0x41
  ackPrefix := [0x4F, 0x4B]
  stripSet := []
  hexCase := .lower
  nReq := 2
  tickW := 32
  tickUnit := 1
  idleGap := some 3
  respMax := none
  txfMax := some 64
  txtMax := none
  wdWindow := 100
  wdFeed := 40
  trigReq := 1
  trigTmo := 100

/-- Free: the parameters of the machine. -/
opaque Config.raw : Params

/-- The machine's parameters: any instance that meets R8 (RF4, log 4). -/
def Config.params : Params := if Config.raw.valid then Config.raw else Params.illustrative

/-- Free: which agent moves when the agenda is empty (R15, R226, R243; log 5). -/
opaque Config.freeEvent : Nat → Machine.Ev

/-- Free: byte `k` of `FBUF` after a FENC of this index and these parameters has failed (X5, R68; log 9). -/
opaque Config.freeByte : Nat → List Byte → Nat → Byte

/-- Free: `NOW` at reset (X4, log 8). -/
opaque Config.nowAtReset : Nat → Nat

/-- Free: how many bytes of the transmit path survive a reset or an abort (X6; log 25, 26). -/
opaque Config.keptPrefix : Nat → Nat

/-- Free: a draw (U15, log 18). -/
opaque Config.freeDraw : Nat → Nat

/-- Free: whether an edge that arrives while its interrupt is disabled is remembered (U17, log 19). -/
opaque Config.edgeRemembered : Nat → Bool

/-- Free: the 32 bits of the weight the sensor returns (R270, log 22). -/
opaque Config.weightSensor : Nat → Word32

end Sys2Proof
end

