-- ==== Sys2Proof/Machine/Catalogue.lean ====
section
/-! DEFINITION. The opcode catalogue `CAT` (spec/30_encoding.md R104 to R107; spec/10_state.md R40). -/

namespace Sys2Proof.Machine

/-- The `kind` of a catalogue entry (R106); it affects no operation. -/
inductive CatKind where
  | set
  | get
  deriving DecidableEq, Repr

/-- A catalogue record (R40). -/
structure CatEntry where
  code : Byte
  kind : CatKind
  paramByteLength : Nat
  description : String
  deriving DecidableEq, Repr

/-- The fourteen rows of R104, indexed by `op_sel`. -/
def cat (c : Params) : List CatEntry :=
  [⟨Config.codePlay, .set, 0, "play"⟩,
   ⟨c.codePause, .set, 0, "pause"⟩,
   ⟨c.codeNext, .set, 0, "next"⟩,
   ⟨c.codePrev, .set, 0, "previous"⟩,
   ⟨c.codeVolup, .set, 0, "volume up"⟩,
   ⟨c.codeVoldn, .set, 0, "volume down"⟩,
   ⟨c.codeStandby, .set, 0, "standby toggle"⟩,
   ⟨c.codeReset, .set, 0, "reset"⟩,
   ⟨c.codeStop, .set, 0, "stop"⟩,
   ⟨c.codeQstate, .get, 0, "play-state query"⟩,
   ⟨c.codeQqty, .get, 0, "music-quantity query"⟩,
   ⟨Config.codeSetvol, .set, 1, "set-volume"⟩,
   ⟨c.codeSetloop, .set, 1, "set-loop-mode"⟩,
   ⟨c.codeSeltrk, .set, 2, "select-track"⟩]

/-- `CAT[op_sel]`; `none` for 14 and 15 (R70, R152). -/
def catEntry (c : Params) (sel : Nat) : Option CatEntry := (cat c)[sel]?

/-- The index `i` with `CAT[i].code == cmd` (R170). The two codes the spec gives are tried first; codes are pairwise
distinct (R8), so the order does not matter. -/
def catIndex (c : Params) (cmd : Byte) : Option Nat :=
  if cmd = Config.codePlay then some 0
  else if cmd = Config.codeSetvol then some 11
  else c.codes.findIdx? fun k => k == cmd

end Sys2Proof.Machine
end

