-- ==== Sys2Proof/Syntax.lean ====
section
/-! DEFINITION. The operations of the block (spec/30_encoding.md R116, R118, R120): one constructor per row of
spec/opcode_table.json. -/

namespace Sys2Proof

/-- The operations. Operands are those of the row's rule; sequences and texts may have any length (R130). -/
inductive Instr where
  /-- FENC.PLAY (R156) -/
  | fencPlay (params : List Byte)
  /-- FENC.PAUSE (R157) -/
  | fencPause (params : List Byte)
  /-- FENC.NEXT (R158) -/
  | fencNext (params : List Byte)
  /-- FENC.PREV (R159) -/
  | fencPrev (params : List Byte)
  /-- FENC.VOLUP (R160) -/
  | fencVolup (params : List Byte)
  /-- FENC.VOLDN (R161) -/
  | fencVoldn (params : List Byte)
  /-- FENC.STANDBY (R162) -/
  | fencStandby (params : List Byte)
  /-- FENC.RESET (R163) -/
  | fencReset (params : List Byte)
  /-- FENC.STOP (R164) -/
  | fencStop (params : List Byte)
  /-- FENC.QSTATE (R165) -/
  | fencQstate (params : List Byte)
  /-- FENC.QQTY (R166) -/
  | fencQqty (params : List Byte)
  /-- FENC.SETVOL (R167) -/
  | fencSetvol (params : List Byte)
  /-- FENC.SETLOOP (R168) -/
  | fencSetloop (params : List Byte)
  /-- FENC.SELTRK (R169) -/
  | fencSeltrk (params : List Byte)
  /-- XORSUM (R131) -/
  | xorsum (s : List Byte)
  /-- ADDSUM (R135) -/
  | addsum (s : List Byte)
  /-- VERIFY (R139): strategy, checked range, expected byte -/
  | verify (g : Bool) (s : List Byte) (c : Byte)
  /-- FENC (R151) with its 4-bit catalogue index -/
  | fenc (opSel : BitVec 4) (params : List Byte)
  /-- FPARSE (R170) -/
  | fparse (s : List Byte)
  /-- FDEC (R174) -/
  | fdec (r : List Byte)
  /-- HEXLIFY (R192) -/
  | hexlify (s : List Byte)
  /-- UNHEX (R193) -/
  | unhex (t : List Byte)
  /-- HENC (R200) -/
  | henc (w : Word32)
  /-- HDEC (R205) -/
  | hdec (t : List Byte)
  /-- XFER (R221): requester, frame, timeout in ticks -/
  | xfer (i : Nat) (frame : List Byte) (tmo : Nat)
  /-- GETSTATE (R262) -/
  | getstate (i : Nat) (tmo : Nat)
  /-- RANDOMPLAY (R263, R265): requester, timeout, and the draw `n` of R266 -/
  | randomplay (i : Nat) (tmo : Nat) (n : BitVec 16)
  /-- TRIGGER (R267) -/
  | trigger
  /-- WSERVE (R270) -/
  | wserve
  /-- WDFEED (R275) -/
  | wdfeed
  /-- FENC.SELTRK16 (R120): the track number -/
  | fencSeltrk16 (n : BitVec 16)
  /-- XVERIFY (R120) -/
  | xverify (s : List Byte) (c : Byte)
  /-- AVERIFY (R120) -/
  | averify (s : List Byte) (c : Byte)
  /-- CMD (R120): requester, FENC's 4-bit index (log 43), parameters, timeout -/
  | cmd (r : Nat) (op : BitVec 4) (params : List Byte) (tmo : Nat)
  deriving DecidableEq, Repr

/-- Why bytes of the command stream are no operation. -/
inductive DecodeError where
  /-- the stream holds no byte -/
  | emptyStream
  /-- the stream ends inside an operation -/
  | truncated
  /-- the first byte is no tag, no pseudo-operation and not `START` -/
  | unknownTag
  /-- a number is not in its one shortest spelling -/
  | longNumber
  /-- a VERIFY strategy above 1 or a catalogue index above 15 -/
  | fieldRange
  /-- a Frame pattern whose LENGTH byte is below 3 -/
  | frameLength
  /-- a Frame pattern that does not end with `END` -/
  | frameEnd
  /-- a Frame pattern whose checksum byte is not the function of the others that R121 says it is -/
  | frameChecksum
  /-- a Frame pattern whose CMD is the code of no catalogue row -/
  | frameCode
  /-- the operands are not well-formed -/
  | illFormed
  deriving DecidableEq, Repr

end Sys2Proof
end

