-- ==== Sys2Proof/WellFormed.lean ====
section
/-! DEFINITION. Which operations can be presented at the operand ports of an instance `c` of the parameters. -/

namespace Sys2Proof

/-- Requester number `i` has a port: `i` in `0..N_REQ-1` (R221). There is always a requester 0, since `N_REQ` is at
least 1 (R8). -/
def Params.hasPort (c : Params) (i : Nat) : Bool := i == 0 || decide (i < c.nReq)

/-- `t` is a number of ticks of `TICK_W` bits (R221). -/
def Params.isTicks (c : Params) (t : Nat) : Bool := t == 0 || decide (t < 2 ^ c.tickW)

/-- The parameters of a FENC form fit the LENGTH byte of the row's Frame pattern (R92, R121; log 3). -/
def Params.formFits (params : List Byte) : Bool := decide (params.length ≤ 252)

/-- The checks of one operation. CMD's row is FENC's 4-bit index, so 14 and 15 can be given and FENC refuses them (log 43). -/
def Instr.wfIn (c : Params) : Instr → Bool
  | .fencPlay p | .fencPause p | .fencNext p | .fencPrev p | .fencVolup p | .fencVoldn p | .fencStandby p
  | .fencReset p | .fencStop p | .fencQstate p | .fencQqty p | .fencSetvol p | .fencSetloop p
  | .fencSeltrk p => Params.formFits p
  | .xorsum _ | .addsum _ | .verify _ _ _ | .fenc _ _ | .fparse _ | .fdec _ | .hexlify _ | .unhex _ | .henc _
  | .hdec _ | .trigger | .wserve | .wdfeed | .fencSeltrk16 _ | .xverify _ _ | .averify _ _ => true
  | .xfer i _ tmo => c.hasPort i && c.isTicks tmo
  | .getstate i tmo => c.hasPort i && c.isTicks tmo
  | .randomplay i tmo _ => c.hasPort i && c.isTicks tmo
  | .cmd r _ _ tmo => c.hasPort r && c.isTicks tmo

/-- Well-formed for this machine's parameters. -/
def Instr.wf (i : Instr) : Bool := i.wfIn Config.params

end Sys2Proof
end

