-- ==== Sys2Proof/Decode.lean ====
section
/-! DEFINITION. The byte encoding of operations in the command stream, its decoder and its encoder. The spec gives each
operation a 4-bit tag (spec/30_encoding.md R118) and each FENC form its whole Frame (R95, R121); how operands follow a
tag is the model's own choice (log 2), as is reading a form's Frame pattern with any number of parameters (log 3).

An operation is its tag byte (tag in the low nibble; the high nibble is 0, or names a pseudo-operation of R120) and its
operands in the table's order: a byte as itself, a 16- or 32-bit value big-endian, a number in groups of seven bits,
least significant group first, the high bit saying that another group follows, a sequence as its length and its bytes.
A FENC form is its Frame pattern, which begins with `START`. -/

namespace Sys2Proof

open Machine

/-! ### Decoding -/

/-- A number, in its one shortest spelling. -/
def decNat : List Byte → Except DecodeError (Nat × List Byte)
  | [] => .error .truncated
  | b :: bs =>
    if b.toNat < 128 then .ok (b.toNat, bs)
    else match decNat bs with
      | .error e => .error e
      | .ok (n, r) => if n = 0 then .error .longNumber else .ok (b.toNat - 128 + 128 * n, r)

/-- A byte sequence: its length and its bytes. -/
def decSeq (bs : List Byte) : Except DecodeError (List Byte × List Byte) :=
  match decNat bs with
  | .error e => .error e
  | .ok (n, r) => if n ≤ r.length then .ok (r.take n, r.drop n) else .error .truncated

/-- One byte. -/
def decByte : List Byte → Except DecodeError (Byte × List Byte)
  | [] => .error .truncated
  | b :: bs => .ok (b, bs)

/-- A 16-bit value, most significant byte first (R60). -/
def dec16 : List Byte → Except DecodeError (BitVec 16 × List Byte)
  | hi :: lo :: bs => .ok (join16 hi lo, bs)
  | _ => .error .truncated

/-- A 32-bit value, most significant byte first (R60). -/
def dec32 : List Byte → Except DecodeError (Word32 × List Byte)
  | b3 :: b2 :: b1 :: b0 :: bs => .ok (join32 b3 b2 b1 b0, bs)
  | _ => .error .truncated

/-- A 4-bit catalogue index, as one byte. -/
def decSel : List Byte → Except DecodeError (BitVec 4 × List Byte)
  | [] => .error .truncated
  | b :: bs => if b.toNat < 16 then .ok (BitVec.ofNat 4 b.toNat, bs) else .error .fieldRange

/-- The strategy bit of VERIFY, as one byte (R118). -/
def decBit : List Byte → Except DecodeError (Bool × List Byte)
  | [] => .error .truncated
  | b :: bs => if b.toNat < 2 then .ok (b == 1, bs) else .error .fieldRange

/-- The FENC form of catalogue row `sel` (R104). -/
def formOf (sel : Nat) (p : List Byte) : Option Instr :=
  match sel with
  | 0 => some (.fencPlay p)
  | 1 => some (.fencPause p)
  | 2 => some (.fencNext p)
  | 3 => some (.fencPrev p)
  | 4 => some (.fencVolup p)
  | 5 => some (.fencVoldn p)
  | 6 => some (.fencStandby p)
  | 7 => some (.fencReset p)
  | 8 => some (.fencStop p)
  | 9 => some (.fencQstate p)
  | 10 => some (.fencQqty p)
  | 11 => some (.fencSetvol p)
  | 12 => some (.fencSetloop p)
  | 13 => some (.fencSeltrk p)
  | _ => none

/-- A Frame pattern after its `START` byte (R91, R121). -/
def decFrame (c : Params) : List Byte → Except DecodeError (Instr × List Byte)
  | len :: cc :: rest =>
    let n := len.toNat - 3
    if len.toNat < 3 then .error .frameLength
    else if rest.length < n + 2 then .error .truncated
    else if rest.getD (n + 1) 0 ≠ Config.endByte then .error .frameEnd
    else if xorFold (len :: cc :: rest.take n) ≠ rest.getD n 0 then .error .frameChecksum
    else match (catIndex c cc).bind fun i => formOf i (rest.take n) with
      | none => .error .frameCode
      | some i => .ok (i, rest.drop (n + 2))
  | _ => .error .truncated

/-- One operation, its operands' ranges not yet checked. -/
def decodeOp (c : Params) : List Byte → Except DecodeError (Instr × List Byte)
  | [] => .error .emptyStream
  | b :: bs =>
    match b.toNat with
    | 0x00 => do let (s, r) ← decSeq bs; .ok (.xorsum s, r)
    | 0x01 => do let (s, r) ← decSeq bs; .ok (.addsum s, r)
    | 0x02 => do
      let (g, r) ← decBit bs; let (s, r) ← decSeq r; let (k, r) ← decByte r; .ok (.verify g s k, r)
    | 0x03 => do let (o, r) ← decSel bs; let (p, r) ← decSeq r; .ok (.fenc o p, r)
    | 0x04 => do let (s, r) ← decSeq bs; .ok (.fparse s, r)
    | 0x05 => do let (s, r) ← decSeq bs; .ok (.fdec s, r)
    | 0x06 => do let (s, r) ← decSeq bs; .ok (.hexlify s, r)
    | 0x07 => do let (s, r) ← decSeq bs; .ok (.unhex s, r)
    | 0x08 => do let (w, r) ← dec32 bs; .ok (.henc w, r)
    | 0x09 => do let (s, r) ← decSeq bs; .ok (.hdec s, r)
    | 0x0A => do
      let (i, r) ← decNat bs; let (f, r) ← decSeq r; let (t, r) ← decNat r; .ok (.xfer i f t, r)
    | 0x0B => do let (i, r) ← decNat bs; let (t, r) ← decNat r; .ok (.getstate i t, r)
    | 0x0C => do
      let (i, r) ← decNat bs; let (t, r) ← decNat r; let (n, r) ← dec16 r; .ok (.randomplay i t n, r)
    | 0x0D => .ok (.trigger, bs)
    | 0x0E => .ok (.wserve, bs)
    | 0x0F => .ok (.wdfeed, bs)
    | 0x12 => do let (s, r) ← decSeq bs; let (k, r) ← decByte r; .ok (.xverify s k, r)
    | 0x22 => do let (s, r) ← decSeq bs; let (k, r) ← decByte r; .ok (.averify s k, r)
    | 0x13 => do let (n, r) ← dec16 bs; .ok (.fencSeltrk16 n, r)
    | 0x23 => do
      let (i, r) ← decNat bs; let (o, r) ← decSel r; let (p, r) ← decSeq r; let (t, r) ← decNat r
      .ok (.cmd i o p t, r)
    | 0x7E => decFrame c bs
    | _ => .error .unknownTag

/-- The decoder of an instance `c` of the parameters: the operation at the front of the stream, and the rest. -/
def decodeIn (c : Params) (bs : List Byte) : Except DecodeError (Instr × List Byte) :=
  match decodeOp c bs with
  | .error e => .error e
  | .ok (i, r) => if i.wfIn c then .ok (i, r) else .error .illFormed

/-- The machine's decoder. -/
def decode (bs : List Byte) : Except DecodeError (Instr × List Byte) := decodeIn Config.params bs

/-! ### Encoding -/

/-- A number in groups of seven bits; `fuel` at least the number is enough. -/
def encNatFuel : Nat → Nat → List Byte
  | 0, n => [BitVec.ofNat 8 n]
  | fuel + 1, n =>
    if n < 128 then [BitVec.ofNat 8 n] else BitVec.ofNat 8 (128 + n % 128) :: encNatFuel fuel (n / 128)

/-- A number. -/
def encNat (n : Nat) : List Byte := encNatFuel n n

/-- A byte sequence: its length and its bytes. -/
def encSeq (s : List Byte) : List Byte := encNat s.length ++ s

/-- The Frame pattern of a FENC form (R91, R95, R121). -/
def encForm (c : Params) (sel : Nat) (p : List Byte) : List Byte :=
  let body := BitVec.ofNat 8 (3 + p.length) :: c.codes.getD sel 0 :: p
  Config.startByte :: (body ++ [xorFold body, Config.endByte])

/-- The encoder of an instance `c` of the parameters. -/
def encodeIn (c : Params) : Instr → List Byte
  | .fencPlay p => encForm c 0 p
  | .fencPause p => encForm c 1 p
  | .fencNext p => encForm c 2 p
  | .fencPrev p => encForm c 3 p
  | .fencVolup p => encForm c 4 p
  | .fencVoldn p => encForm c 5 p
  | .fencStandby p => encForm c 6 p
  | .fencReset p => encForm c 7 p
  | .fencStop p => encForm c 8 p
  | .fencQstate p => encForm c 9 p
  | .fencQqty p => encForm c 10 p
  | .fencSetvol p => encForm c 11 p
  | .fencSetloop p => encForm c 12 p
  | .fencSeltrk p => encForm c 13 p
  | .xorsum s => 0x00 :: encSeq s
  | .addsum s => 0x01 :: encSeq s
  | .verify g s k => 0x02 :: (if g then 1 else 0) :: (encSeq s ++ [k])
  | .fenc o p => 0x03 :: BitVec.ofNat 8 o.toNat :: encSeq p
  | .fparse s => 0x04 :: encSeq s
  | .fdec s => 0x05 :: encSeq s
  | .hexlify s => 0x06 :: encSeq s
  | .unhex s => 0x07 :: encSeq s
  | .henc w => 0x08 :: split32 w
  | .hdec s => 0x09 :: encSeq s
  | .xfer i f t => 0x0A :: (encNat i ++ encSeq f ++ encNat t)
  | .getstate i t => 0x0B :: (encNat i ++ encNat t)
  | .randomplay i t n => 0x0C :: (encNat i ++ encNat t ++ split16 n)
  | .trigger => [0x0D]
  | .wserve => [0x0E]
  | .wdfeed => [0x0F]
  | .xverify s k => 0x12 :: (encSeq s ++ [k])
  | .averify s k => 0x22 :: (encSeq s ++ [k])
  | .fencSeltrk16 n => 0x13 :: split16 n
  | .cmd i o p t => 0x23 :: (encNat i ++ BitVec.ofNat 8 o.toNat :: (encSeq p ++ encNat t))

/-- The bytes of a well-formed operation. -/
def encode (i : Instr) : List Byte := encodeIn Config.params i

/-! ### Words numbered as spec/opcode_table.json numbers them -/

/-- The bytes of a table word: the first byte is bits 7 to 0, the second bits 15 to 8, and so on. -/
def wordBytes (nbits w : Nat) : List Byte :=
  (List.range ((nbits + 7) / 8)).map fun k => BitVec.ofNat 8 (w / 256 ^ k)

/-- The bytes of a table word with operand bytes of zeros after it (an operation whose operands are all zero has at
most five bytes). -/
def paddedWord (nbits w : Nat) : List Byte := wordBytes nbits w ++ List.replicate 8 0

/-- The instruction the decoder reads from a table word. -/
def decodeTableWord (nbits w : Nat) : Option Instr :=
  match decode (paddedWord nbits w) with
  | .ok (i, _) => some i
  | .error _ => none

/-- The bytes of exactly the operation a table word encodes; the padded word where it encodes none. -/
def tableOperation (nbits w : Nat) : List Byte :=
  match decode (paddedWord nbits w) with
  | .ok (_, rest) => (paddedWord nbits w).take ((paddedWord nbits w).length - rest.length)
  | .error _ => paddedWord nbits w

end Sys2Proof
end

