-- ==== Sys2Proof/Machine/State.lean ====
section
/-! DEFINITION. The state of the block, of the agents around it that its rules name, and the model's own schedule
(spec/10_state.md; INVENTORY.md, heading State). One structure per unit: no unit reads or writes another's (R20). -/

namespace Sys2Proof.Machine

/-! ### Errors and results -/

/-- The error codes of R291, in the order of their numbers 0 to 7. -/
inductive ErrCode where
  | noError
  | paramCount
  | checksum
  | framing
  | transportTimeout
  | protocol
  | unknownOpcode
  | transportFault
  deriving DecidableEq, Repr, Inhabited

/-- What an error may carry beyond its kind (R13, R293); it has no effect on any later operation. -/
inductive ErrInfo where
  | none
  /-- `UnknownOpcode(op_sel)` -/
  | sel (n : Nat)
  /-- `UnknownOpcode(cmd)` -/
  | cmd (b : Byte)
  /-- `ParamCountError(op_sel, count)` -/
  | selCount (sel count : Nat)
  /-- `ChecksumError(expected, got)` -/
  | sums (expected got : Byte)
  /-- `FramingError` of FPARSE: which check -/
  | short
  | start
  | length
  | size
  | ending
  /-- `FramingError` of UNHEX and HDEC: which check -/
  | odd
  | digit
  | empty
  /-- `FramingError(r)` of FDEC -/
  | raw (r : List Byte)
  /-- `ProtocolError`: which condition (R262, R263, R265) -/
  | shape
  | playState (v : Nat)
  | quantityFormat
  | zeroQuantity
  | missingAck
  deriving DecidableEq, Repr, Inhabited

/-- An error: its kind and its information. -/
structure Err where
  code : ErrCode
  info : ErrInfo
  deriving DecidableEq, Repr, Inhabited

/-- A Reply of FDEC (R174). -/
inductive Reply where
  | ack (rest : List Byte)
  | hex (value : Nat)
  deriving DecidableEq, Repr, Inhabited

/-- What HDEC answers when it raises nothing (R205). -/
inductive Verdict where
  | readWeight
  | unrecognised
  deriving DecidableEq, Repr, Inhabited

/-- PlayState (R261), in the order of its numbers 0 to 4. -/
inductive PlayState where
  | custom
  | playing
  | paused
  | fastForward
  | fastReverse
  deriving DecidableEq, Repr, Inhabited

/-- What a unit's result port holds: the result of the unit's last operation (R44, R295). -/
inductive UnitResult where
  /-- no operation since reset -/
  | none
  | byte (b : Byte)
  | bit (b : Bool)
  /-- a Frame (FENC) -/
  | frame (f : List Byte)
  /-- `(op_sel, cmd, params)` (FPARSE) -/
  | parsed (sel : Nat) (cmd : Byte) (params : List Byte)
  | reply (r : Reply)
  | text (t : List Byte)
  | bytes (s : List Byte)
  /-- the reply as raw bytes and as text (HENC) -/
  | hexReply (raw text : List Byte)
  | verdict (v : Verdict)
  | err (e : Err)
  deriving DecidableEq, Repr, Inhabited

/-! ### The units -/

/-- XG (R22). -/
structure XGState where
  acc : Byte
  out : UnitResult
  deriving DecidableEq, Repr, Inhabited

/-- SG (R23). -/
structure SGState where
  acc : Byte
  out : UnitResult
  deriving DecidableEq, Repr, Inhabited

/-- FE (R24, R28). -/
structure FEState where
  fbuf : List Byte
  flen : Nat
  err : ErrCode
  out : UnitResult
  deriving DecidableEq, Repr, Inhabited

/-- `FD_KIND` (R25), codes 0 to 3. -/
inductive FdKind where
  | none
  | ack
  | hex
  | frame
  deriving DecidableEq, Repr, Inhabited

/-- FD (R25, R28). -/
structure FDState where
  rbuf : List Byte
  rlen : Nat
  kind : FdKind
  val : Nat
  rest : List Byte
  cmd : Byte
  sel : Nat
  np : Nat
  par : List Byte
  err : ErrCode
  out : UnitResult
  deriving DecidableEq, Repr, Inhabited

/-- HE (R26, R28). -/
structure HEState where
  hbuf : List Byte
  htxt : List Byte
  hvalid : Bool
  err : ErrCode
  out : UnitResult
  deriving DecidableEq, Repr, Inhabited

/-- `HD_VERDICT` (R27), codes 0 to 3. -/
inductive HdVerdict where
  | none
  | readWeight
  | unrecognised
  | error
  deriving DecidableEq, Repr, Inhabited

/-- HD (R27, R28). -/
structure HDState where
  tbuf : List Byte
  tlen : Nat
  scratch : List Byte
  verdict : HdVerdict
  err : ErrCode
  out : UnitResult
  deriving DecidableEq, Repr, Inhabited

/-- `PHASE` (R29), codes 0 to 4. -/
inductive Phase where
  | idle
  | drain
  | write
  | flush
  | recv
  deriving DecidableEq, Repr, Inhabited

/-- A request slot `REQ[i]` (R34). -/
structure ReqSlot where
  pending : Bool
  frame : List Byte
  tmo : Nat
  deriving DecidableEq, Repr, Inhabited

/-- A result slot `RES[i]` (R35). -/
structure ResSlot where
  valid : Bool
  err : ErrCode
  ovf : Bool
  bytes : List Byte
  deriving DecidableEq, Repr, Inhabited

/-- Values by requester number, numbers strictly rising; a number that is not listed has its reset value. -/
abbrev Table (α : Type) := List (Nat × α)

/-- MA (R29 to R31, R34 to R36). -/
structure MAState where
  lock : Bool
  owner : Nat
  phase : Phase
  req : Table ReqSlot
  res : Table ResSlot
  txf : List Byte
  txflen : Nat
  txidx : Nat
  tmo : Nat
  t0 : Nat
  tlast : Nat
  got : Bool
  ovf : Bool
  resp : List Byte
  resplen : Nat
  deriving DecidableEq, Repr, Inhabited

/-! ### The environment the block reads (R41 to R45) -/

/-- The audio-line UART. -/
structure LineState where
  rxfifo : List Byte
  /-- the transmit path: bytes pushed and not yet sent, oldest first -/
  txq : List Byte
  /-- the bytes that have left on the wire, oldest first -/
  wire : List Byte
  txReady : Bool
  ioFault : Bool
  deriving DecidableEq, Repr, Inhabited

/-- The bridge UART, private to WeightReplyService (R76). -/
structure BridgeState where
  /-- bursts not yet read, oldest first; one read returns one burst (R272) -/
  rx : List (List Byte)
  /-- the bytes written -/
  tx : List Byte
  deriving DecidableEq, Repr, Inhabited

/-- The watchdog and its feed timer (R275, R276, R306). -/
structure WatchdogState where
  armed : Bool
  /-- ticks since the last feed -/
  count : Nat
  /-- ticks since the feed timer last fired -/
  feedCount : Nat
  irqFrozen : Bool
  deriving DecidableEq, Repr, Inhabited

/-! ### The host's requester contexts (R260) -/

/-- A sequence that a requester context is asked for (R120, R262, R263). -/
inductive HostCall where
  | cmd (op : BitVec 4) (params : List Byte) (tmo : Nat)
  | getstate (tmo : Nat)
  | randomplay (tmo : Nat) (n : Nat)
  deriving DecidableEq, Repr, Inhabited

/-- Where a requester context is in its sequence. `trig` says that the sequence belongs to TRIGGER. -/
inductive HostPc where
  | idle
  /-- asked for a sequence while it may not run; the sequence's first step comes next (R273) -/
  | ready (call : HostCall)
  /-- CMD: the frame is built, XFER comes next -/
  | cmdPost (frame : List Byte) (tmo : Nat)
  /-- CMD: in XFER; FDEC comes next -/
  | cmdWait
  /-- GETSTATE: the frame is built, XFER comes next -/
  | gsPost (trig : Bool) (frame : List Byte) (tmo : Nat)
  /-- GETSTATE: in XFER; FDEC comes next -/
  | gsWait (trig : Bool) (tmo : Nat)
  /-- RANDOMPLAY inside TRIGGER, about to begin with FENC.QQTY -/
  | rqStart (tmo : Nat)
  /-- RANDOMPLAY: the quantity query is built, XFER comes next -/
  | rqPost (trig : Bool) (frame : List Byte) (tmo : Nat) (n : Nat)
  /-- RANDOMPLAY: in the first XFER; FDEC comes next -/
  | rqWait (trig : Bool) (tmo : Nat) (n : Nat)
  /-- RANDOMPLAY: track `n` is drawn, FENC.SELTRK comes next -/
  | rsStart (trig : Bool) (tmo : Nat) (n : Nat)
  /-- RANDOMPLAY: the track-select frame is built, XFER comes next -/
  | rsPost (trig : Bool) (frame : List Byte) (tmo : Nat) (n : Nat)
  /-- RANDOMPLAY: in the second XFER; FDEC comes next -/
  | rsWait (trig : Bool) (n : Nat)
  /-- TRIGGER: the interrupt is re-enabled next -/
  | trigExit
  deriving DecidableEq, Repr, Inhabited

/-- The result of a requester context's last sequence. -/
inductive HostResult where
  | none
  | reply (r : Reply)
  | playState (p : PlayState)
  /-- RANDOMPLAY's `success(n)` -/
  | played (n : Nat)
  | err (e : Err)
  deriving DecidableEq, Repr, Inhabited

/-- Where the WeightReplyService task is in its loop (R270); between two of its steps anything else may happen (R274). -/
inductive ServicePc where
  /-- the task has not been started (R323) -/
  | off
  /-- at the read of the bridge line, its suspension point -/
  | atRead
  /-- a burst has been read; HEXLIFY comes next -/
  | burst (b : List Byte)
  /-- HEXLIFY gave the text; HDEC comes next -/
  | text (t : List Byte)
  /-- the verdict is READ_WEIGHT; the sensor is asked next -/
  | weigh
  /-- the sensor has answered; HENC comes next -/
  | weighed (w : Word32)
  /-- HENC gave the raw reply; it is written to the bridge line next -/
  | reply (h : List Byte)
  deriving DecidableEq, Repr, Inhabited

/-- A task of the cooperative scheduler (R273): a requester context, the trigger handler's apart, or
WeightReplyService. -/
inductive HostTask where
  | requester (i : Nat)
  | weightReply
  deriving DecidableEq, Repr, Inhabited

/-- A value read at a result port. -/
inductive PortVal where
  | bytes (s : List Byte)
  | num (n : Nat)
  deriving DecidableEq, Repr, Inhabited

/-- The host around the block. -/
structure HostState where
  task : Table HostPc
  result : Table HostResult
  /-- `trigger_irq_enable` (R267) -/
  trigIrqEnable : Bool
  /-- an edge waits to be taken (R268) -/
  edgePending : Bool
  /-- where the WeightReplyService task is (R270) -/
  service : ServicePc
  /-- the task that has taken a step and has not come to a wait point of its own sequence; none between such points
  (R273) -/
  running : Option HostTask
  /-- what was last read at a result port -/
  readout : PortVal
  deriving DecidableEq, Repr, Inhabited

/-! ### The state -/

/-- The state. -/
structure State where
  xg : XGState
  sg : SGState
  fe : FEState
  fd : FDState
  he : HEState
  hd : HDState
  ma : MAState
  line : LineState
  /-- `NOW` (R41) -/
  now : Nat
  bridge : BridgeState
  wd : WatchdogState
  host : HostState
  /-- the model's own: the encoded operations waiting at the operand ports (log 1) -/
  cmds : List Byte
  /-- the model's own: which agents move next (log 1) -/
  agenda : List Ev
  /-- the model's own: counter of the free values used so far (log 5) -/
  freeCtr : Nat
  deriving DecidableEq, Repr

/-- `REQ[i]` at reset: `pending = 0` (R47), the rest DESIGN CHOICE (log 7). -/
def ReqSlot.reset : ReqSlot := ⟨false, [], 0⟩

/-- `RES[i]` at reset: `valid = 0` (R47), `err = 0` (R28), the rest DESIGN CHOICE (log 7). -/
def ResSlot.reset : ResSlot := ⟨false, .noError, false, []⟩

/-- The machine right after reset (R47); what R47 leaves unspecified is named in log 7, 8, 10, 16, 19 to 24, 27, 38, 44. -/
def State.reset : State where
  xg := ⟨0x00, .none⟩
  sg := ⟨0x00, .none⟩
  fe := ⟨[0, 0, 0, 0, 0, 0, 0], 0, .noError, .none⟩
  fd := ⟨[], 0, .none, 0, [], 0, 0, 0, [0, 0], .noError, .none⟩
  he := ⟨[0, 0, 0, 0, 0, 0, 0, 0], [0, 0, 0, 0, 0, 0, 0, 0, 0, 0, 0, 0, 0, 0, 0, 0], false, .noError, .none⟩
  hd := ⟨[], 0, [], .none, .noError, .none⟩
  ma := ⟨false, 0, .idle, [], [], [], 0, 0, 0, 0, 0, false, false, [], 0⟩
  line := ⟨[], [], [], true, false⟩
  now := Config.nowAtReset 0 % 2 ^ Config.params.tickW
  bridge := ⟨[], []⟩
  wd := ⟨false, 0, 0, false⟩
  host := ⟨[], [], true, false, .off, none, .bytes []⟩
  cmds := []
  agenda := []
  freeCtr := 0

/-- Why a step stops with a fault. -/
inductive Fault where
  /-- A `MemRead` beyond the valid length of its buffer (R81, X1, X5). Raised by a requester's read of `FBUF`, `HBUF`,
  `HTXT`, and by MA's push in a state whose `TXF` is shorter than `TXFLEN` (no run reaches one). Safe: the spec gives
  such a read no meaning. -/
  | readBeyondValid
  /-- A read of an FD result register that `FD_KIND` does not name (R25, X2: "fault on read"). Raised by a requester's
  read. Safe. -/
  | registerNotValid
  /-- A read of a result after the same unit's, or for `RES[i]` the same requester's, next operation has started (R331,
  X7: "fault"). Raised by a requester's read of `HBUF` or `HTXT` after a HEXLIFY, and of `RES[i]` while request `i` is
  pending. Safe. -/
  | staleResult
  deriving DecidableEq, Repr

/-- Why a step gives an operation no meaning. -/
inductive Refusal where
  /-- The instruction has no meaning in this model yet; raised by `exec` only. Safe. -/
  | notModelled (mnemonic : String)
  /-- An operand longer than its buffer (R82, RF1). Raised by FPARSE, FDEC, UNHEX, HDEC, XFER, by WSERVE on a burst
  whose text is longer than `TXT_MAX`, and by a host sequence that hands FDEC such a response. Safe. -/
  | operandTooLong
  /-- XFER of a requester whose request is pending (R223, R224, RF2); CMD, GETSTATE, RANDOMPLAY of a requester that is
  blocked so or in the middle of a sequence, which are steps of the same context in program order (R260; log 16). Safe. -/
  | requesterBusy
  /-- A requester number that has no port, or that is another context's (R221). Raised by XFER, CMD, GETSTATE,
  RANDOMPLAY, at the presentation of one of them by another context, and by a read of a result slot that no requester
  has (R35; log 38). Safe. -/
  | noSuchRequester
  /-- The command stream holds bytes that encode no operation (log 2). Raised by `step`. Safe. -/
  | undecodable (why : DecodeError)
  deriving DecidableEq, Repr

end Sys2Proof.Machine
end

