-- ==== Sys2Proof/Machine/Flags.lean ====
section
/-! DEFINITION. The numbers software reads for the named codes (spec/60_exceptions.md R291; spec/10_state.md R25, R27,
R29), and the conditions MA's steps test (spec/43_bus_arbiter.md R229 to R233). The block has no condition codes (R32);
its only flags are `LOCK`, `GOT`, `OVF`. -/

namespace Sys2Proof.Machine

/-- The code of an error kind (R291). -/
def ErrCode.number : ErrCode → BitVec 3
  | .noError => 0
  | .paramCount => 1
  | .checksum => 2
  | .framing => 3
  | .transportTimeout => 4
  | .protocol => 5
  | .unknownOpcode => 6
  | .transportFault => 7

/-- The code of `FD_KIND` (R25). -/
def FdKind.number : FdKind → BitVec 2
  | .none => 0
  | .ack => 1
  | .hex => 2
  | .frame => 3

/-- The code of `HD_VERDICT` (R27). -/
def HdVerdict.number : HdVerdict → BitVec 2
  | .none => 0
  | .readWeight => 1
  | .unrecognised => 2
  | .error => 3

/-- The code of `PHASE` (R29). -/
def Phase.number : Phase → BitVec 3
  | .idle => 0
  | .drain => 1
  | .write => 2
  | .flush => 3
  | .recv => 4

/-- The number of a PlayState (R261). -/
def PlayState.number : PlayState → Nat
  | .custom => 0
  | .playing => 1
  | .paused => 2
  | .fastForward => 3
  | .fastReverse => 4

/-- The PlayState of a number; none above 4 (R261). -/
def playStateOf : Nat → Option PlayState
  | 0 => some .custom
  | 1 => some .playing
  | 2 => some .paused
  | 3 => some .fastForward
  | 4 => some .fastReverse
  | _ => none

/-- Elapsed ticks since a sample `t` of `NOW`, modulo `2^TICK_W` (R232). -/
def elapsed (c : Params) (now t : Nat) : Nat := (now + 2 ^ c.tickW - t % 2 ^ c.tickW) % 2 ^ c.tickW

/-- Case (a) of R233: the deadline. -/
def deadlineReached (c : Params) (s : State) : Bool := decide (s.ma.tmo ≤ elapsed c s.now s.ma.t0)

/-- Case (b) of R233: data stopped arriving. -/
def dataStopped (c : Params) (s : State) : Bool :=
  s.ma.got && match c.idleGap with
    | none => false
    | some g => decide (g ≤ elapsed c s.now s.ma.tlast)

/-- There is room for one more response byte (R231, R234). -/
def respHasRoom (c : Params) (s : State) : Bool :=
  match c.respMax with
  | none => true
  | some m => decide (s.ma.resplen < m)

/-- `RxAny()` (R12). -/
def rxAny (s : State) : Bool := !s.line.rxfifo.isEmpty

/-- `TxIdle()` (R12, R43): every pushed byte has left on the wire. -/
def txIdle (s : State) : Bool := s.line.txq.isEmpty

/-- The fourth case of R231: no deadline, no byte, no idle gap, so MA polls again. -/
def pollsAgain (c : Params) (s : State) : Bool := !deadlineReached c s && !rxAny s && !dataStopped c s

end Sys2Proof.Machine
end

