-- ==== Sys2Proof/Machine/Operands.lean ====
section
/-! DEFINITION. The operand ports: which operands start an operation (spec/20_memory.md R82; spec/43_bus_arbiter.md
R221), and how operands are assembled (spec/30_encoding.md R96; spec/44_host_sequences.md R266). -/

namespace Sys2Proof.Machine

/-- A sequence fits a buffer of capacity `cap` (`none` is infinite); the empty sequence fits every buffer (R8: every
capacity is at least 1). -/
def fits (cap : Option Nat) (s : List Byte) : Bool :=
  s.isEmpty || match cap with
    | none => true
    | some m => decide (s.length ≤ m)

/-- Requester number `i` has a port (R221). -/
def portExists (c : Params) (i : Nat) : Bool := c.hasPort i

/-- A timeout as the `TICK_W`-bit port carries it (R33, R67; log 36). -/
def ticksOperand (c : Params) (t : Nat) : Nat := t % 2 ^ c.tickW

/-- The two parameter bytes of select-track for track `n`, high byte first (R96, R265). -/
def trackParams (n : Nat) : List Byte := split16 (BitVec.ofNat 16 n)

/-- The draw of R266 in `1..q`: the operand `n` when it is in range, else a free value in range (log 18). -/
def drawTrack (n q ctr : Nat) : Nat := if 1 ≤ n ∧ n ≤ q then n else 1 + Config.freeDraw ctr % q

end Sys2Proof.Machine
end

