-- ==== Sys2Proof/Machine/Ops.lean ====
section
/-! DEFINITION. The operations every meaning is written over: the slots of the requesters, the update of one unit,
recording an error and recording success, posting a request, starting and ending a host sequence, and the reset of the
device. -/

namespace Sys2Proof.Machine

/-- The outcome of a step. -/
abbrev Result := Host.Outcome State Fault Refusal

/-! ### Requester slots -/

/-- The value of requester `k`, `d` when it has its reset value. -/
def Table.get {α : Type} (d : α) (k : Nat) : Table α → α
  | [] => d
  | (j, v) :: t => if k = j then v else Table.get d k t

/-- Set the value of requester `k`; the numbers stay strictly rising. -/
def Table.put {α : Type} (k : Nat) (v : α) : Table α → Table α
  | [] => [(k, v)]
  | (j, w) :: t =>
    if k = j then (k, v) :: t else if k < j then (k, v) :: (j, w) :: t else (j, w) :: Table.put k v t

/-- `REQ[i]` (R34). -/
def State.reqOf (s : State) (i : Nat) : ReqSlot := Table.get ReqSlot.reset i s.ma.req

/-- `RES[i]` (R35). -/
def State.resOf (s : State) (i : Nat) : ResSlot := Table.get ResSlot.reset i s.ma.res

/-- Where requester context `i` is in its sequence. -/
def State.taskOf (s : State) (i : Nat) : HostPc := Table.get .idle i s.host.task

/-- The result of requester context `i`'s last sequence. -/
def State.resultOf (s : State) (i : Nat) : HostResult := Table.get .none i s.host.result

/-- Requester `i` is blocked: from its post to its result it takes no other step (R223). -/
def State.blocked (s : State) (i : Nat) : Bool := (s.reqOf i).pending

/-- Requester context `i` can begin a sequence: it is not blocked and in no sequence (R224, R260). -/
def State.ctxFree (s : State) (i : Nat) : Bool := decide (s.taskOf i = .idle) && !s.blocked i

/-! ### Updates of one part of the state -/

def State.withXg (s : State) (x : XGState) : State := { s with xg := x }
def State.withSg (s : State) (x : SGState) : State := { s with sg := x }
def State.withFe (s : State) (x : FEState) : State := { s with fe := x }
def State.withFd (s : State) (x : FDState) : State := { s with fd := x }
def State.withHe (s : State) (x : HEState) : State := { s with he := x }
def State.withHd (s : State) (x : HDState) : State := { s with hd := x }
def State.withMa (s : State) (x : MAState) : State := { s with ma := x }
def State.withLine (s : State) (x : LineState) : State := { s with line := x }
def State.withNow (s : State) (x : Nat) : State := { s with now := x }
def State.withBridge (s : State) (x : BridgeState) : State := { s with bridge := x }
def State.withWd (s : State) (x : WatchdogState) : State := { s with wd := x }
def State.withHost (s : State) (x : HostState) : State := { s with host := x }
def State.withCmds (s : State) (x : List Byte) : State := { s with cmds := x }
def State.withAgenda (s : State) (x : List Ev) : State := { s with agenda := x }

/-- The next free value is used (log 5). -/
def State.useFree (s : State) : State := { s with freeCtr := s.freeCtr + 1 }

/-- A context at a wait point of its sequence: before it, after it, or blocked in its XFER (R223, R273). -/
def HostPc.waits : HostPc → Bool
  | .idle | .ready _ | .cmdWait | .gsWait _ _ | .rqWait _ _ _ | .rsWait _ _ => true
  | .cmdPost _ _ | .gsPost _ _ _ | .rqStart _ | .rqPost _ _ _ _ | .rsStart _ _ _ | .rsPost _ _ _ _ | .trigExit => false

/-- WeightReplyService at its wait point, the read (R270), or not started. -/
def ServicePc.waits : ServicePc → Bool
  | .off | .atRead => true
  | .burst _ | .text _ | .weigh | .weighed _ | .reply _ => false

/-- The task that has the processor: one that is blocked in an XFER is at a wait point, whoever posted it (R223, R273). -/
def State.processor (s : State) : Option HostTask :=
  match s.host.running with
  | none => none
  | some .weightReply => some .weightReply
  | some (.requester j) => if s.blocked j then none else some (.requester j)

/-- Requester context `i` may take a step of a host sequence: a task when no other task has the processor (R273); the
trigger handler's context, an interrupt, at any time but during an interrupt freeze (R274, R276; log 44, log 24). With no
freeze and a free processor every context may, whichever is the handler's. The block's own operations do not ask (R328). -/
def State.mayRun (c : Params) (i : Nat) (s : State) : Bool :=
  (!s.wd.irqFrozen && s.host.running.isNone)
  || if i = c.trigReq then !s.wd.irqFrozen
     else decide (s.processor = none ∨ s.processor = some (.requester i))

/-- WeightReplyService may take a step (R273). -/
def State.serviceMayRun (s : State) : Bool :=
  decide (s.processor = none ∨ s.processor = some .weightReply)

/-- Which task has not come to a wait point, once task `me` has taken a step that leads to one or not. -/
def schedule (me : HostTask) (waits : Bool) (r : Option HostTask) : Option HostTask :=
  if waits then if r = some me then none else r else some me

/-- The same once context `i` has come to `pc`: a task keeps the processor up to its next wait point (R273); the trigger
handler's context is an interrupt and holds no task up (log 44). -/
def processorAfter (c : Params) (i : Nat) (pc : HostPc) (r : Option HostTask) : Option HostTask :=
  if i = c.trigReq then r else schedule (.requester i) pc.waits r

/-- Requester context `i` comes to `pc`. -/
def State.setTask (s : State) (c : Params) (i : Nat) (pc : HostPc) : State :=
  s.withHost
    { s.host with task := Table.put i pc s.host.task, running := processorAfter c i pc s.host.running }

/-- WeightReplyService comes to `pc`. -/
def State.setService (s : State) (pc : ServicePc) : State :=
  s.withHost { s.host with service := pc, running := schedule .weightReply pc.waits s.host.running }

/-- The result of requester context `i`'s sequence. -/
def State.setResult (s : State) (i : Nat) (r : HostResult) : State :=
  s.withHost { s.host with result := Table.put i r s.host.result }

/-! ### Recording an error, recording success (R13, R28, R150, R299, R300)

There is no trap: an error is the result of the operation that raised it, it is kept in the unit's error register and at
its result port, and nothing else of the block changes. There is nothing to return from (R301); the next operation that
succeeds sets the error register to 0 (R28). -/

/-- The operations that can raise, by what they do to their unit's registers when they raise. -/
inductive Raiser where
  /-- FENC of this index and these parameters: `FLEN <- 0`, `FBUF` unspecified (R24, R150, R299) -/
  | fenc (sel : Nat) (params : List Byte)
  /-- FPARSE and FDEC: `FD_KIND <- 0` (R150, R299) -/
  | fd
  /-- UNHEX and HDEC: `HD_VERDICT <- 3` (R205, R299) -/
  | hd
  deriving DecidableEq, Repr

/-- The contents of `FBUF` after a FENC has failed: unspecified (X5), and the same when the same FENC is repeated (R68;
log 9). -/
def freeBytes (sel : Nat) (params : List Byte) : List Byte :=
  (List.range Config.frameMax).map (Config.freeByte sel params)

/-- Record the error `e` (R299, R300). -/
def raiseErr (u : Raiser) (e : Err) (s : State) : State :=
  match u with
  | .fenc sel p => s.withFe ⟨freeBytes sel p, 0, e.code, .err e⟩
  | .fd => s.withFd { s.fd with kind := .none, err := e.code, out := .err e }
  | .hd => s.withHd { s.hd with verdict := .error, err := e.code, out := .err e }

/-- Record the success of an operation with result `r`: the error register is 0 (R28). -/
def clearErr (u : Raiser) (r : UnitResult) (s : State) : State :=
  match u with
  | .fenc _ _ => s.withFe { s.fe with err := .noError, out := r }
  | .fd => s.withFd { s.fd with err := .noError, out := r }
  | .hd => s.withHd { s.hd with err := .noError, out := r }

/-! ### Loading an input buffer (R25, R27, R82) -/

/-- The requester's byte sequence is loaded into `RBUF`. -/
def loadRbuf (r : List Byte) (s : State) : State :=
  s.withFd { s.fd with rbuf := memWrite s.fd.rbuf 0 r, rlen := r.length }

/-- The requester's text is loaded into `TBUF`. -/
def loadTbuf (t : List Byte) (s : State) : State :=
  s.withHd { s.hd with tbuf := memWrite s.hd.tbuf 0 t, tlen := t.length }

/-! ### Posting a request (R223) -/

/-- The effect of the post step of R223. -/
def postState (c : Params) (i : Nat) (frame : List Byte) (tmo : Nat) (s : State) : State :=
  s.withMa { s.ma with
    req := Table.put i ⟨true, frame, ticksOperand c tmo⟩ s.ma.req
    res := Table.put i { s.resOf i with valid := false } s.ma.res }

/-- The post step of R223 with what refuses it: no such port (R221), an earlier request still pending (RF2), a frame
longer than `TXF_MAX` (R82). Nothing else of the context is asked (R328). -/
def post (c : Params) (i : Nat) (frame : List Byte) (tmo : Nat) (s : State) : Result :=
  if !portExists c i then .refused .noSuchRequester
  else if s.blocked i then .refused .requesterBusy
  else if !fits c.txfMax frame then .refused .operandTooLong
  else .next (postState c i frame tmo s)

/-- A requester context's sequence ends with result `r`; inside TRIGGER the handler's exit follows (R267). -/
def finishSeq (c : Params) (trig : Bool) (i : Nat) (r : HostResult) (s : State) : State :=
  (s.setResult i r).setTask c i (if trig then .trigExit else .idle)

/-! ### Reset of the device (R320 to R322) -/

/-- Everything takes its reset value; bytes already pushed may or may not have left on the wire (X6); `NOW` is any value
(X4). What the environment has already received, and what it will do, stay (log 25). -/
def deviceReset (c : Params) (s : State) : State :=
  { State.reset with
    line := { State.reset.line with wire := s.line.wire ++ s.line.txq.take (Config.keptPrefix s.freeCtr) }
    now := Config.nowAtReset (s.freeCtr + 1) % 2 ^ c.tickW
    bridge := ⟨[], s.bridge.tx⟩
    cmds := s.cmds
    agenda := s.agenda
    freeCtr := s.freeCtr + 1 }

/-- The state of a next outcome. -/
def nextState (r : Result) : Option State :=
  match r with
  | .next s => some s
  | .fault _ => none
  | .refused _ => none

end Sys2Proof.Machine
end

