-- ==== Sys2Proof/Machine/Arbiter.lean ====
section
/-! DEFINITION. The bus arbiter MA (spec/43_bus_arbiter.md): XFER is its post step (R223); MA's own steps (R227 to R236)
are taken one at a time, and the environment steps between them (R69, R243). -/

namespace Sys2Proof.Machine

/-- Grant (R227), for requester `i`; it is enabled when the lock is free and `i` is pending (R226). -/
def grantStep (i : Nat) (s : State) : State :=
  if !s.ma.lock && (s.reqOf i).pending then
    s.withMa { s.ma with
      lock := true
      owner := i
      txf := memWrite s.ma.txf 0 (s.reqOf i).frame
      txflen := (s.reqOf i).frame.length
      tmo := (s.reqOf i).tmo
      phase := .drain }
  else s

/-- Drain (R228). -/
def drainStep (s : State) : State :=
  (s.withLine { s.line with rxfifo := [] }).withMa { s.ma with txidx := 0, phase := .write }

/-- Push (R229): the byte at `TXIDX` is handed to the transmit path. -/
def pushStep (s : State) : Result :=
  match memRead s.ma.txf s.ma.txflen s.ma.txidx 1 with
  | some [b] =>
    .next ((s.withLine { s.line with txq := s.line.txq ++ [b] }).withMa { s.ma with txidx := s.ma.txidx + 1 })
  | _ => .fault .readBeyondValid

/-- End of write (R229). -/
def endWriteStep (s : State) : State := s.withMa { s.ma with phase := .flush }

/-- The write phase (R229): push while bytes are left and `TxReady()`, then the end of write. -/
def writeStep (s : State) : Result :=
  if s.ma.txidx < s.ma.txflen then
    if s.line.txReady then pushStep s else .next s
  else if s.ma.txidx = s.ma.txflen then .next (endWriteStep s)
  else .next s

/-- Flush (R230), once `TxIdle()`. -/
def flushStep (s : State) : State :=
  if txIdle s then
    s.withMa { s.ma with t0 := s.now, resplen := 0, got := false, ovf := false, phase := .recv }
  else s

/-- The two releases (R235, R236) end the owner's tenure with a result. `TXIDX` means nothing from here to the drain of the
next transaction (R36); it is 0 there, so that `TXIDX ≤ TXFLEN` holds whatever frame is granted next (R241; log 40). -/
def release (r : ResSlot) (s : State) : State :=
  s.withMa { s.ma with
    res := Table.put s.ma.owner r s.ma.res
    req := Table.put s.ma.owner { s.reqOf s.ma.owner with pending := false } s.ma.req
    txidx := 0
    lock := false
    phase := .idle }

/-- Finish (R235): `MemRead(RESP, 0, RESPLEN)` is within the valid length. -/
def finishStep (s : State) : State :=
  release ⟨true, .noError, s.ma.ovf, (memRead s.ma.resp s.ma.resplen 0 s.ma.resplen).getD []⟩ s

/-- The byte case of R231, with the overflow of R234. -/
def takeByte (c : Params) (b : Byte) (rest : List Byte) (s : State) : State :=
  if respHasRoom c s then
    (s.withLine { s.line with rxfifo := rest }).withMa { s.ma with
      resp := memWrite s.ma.resp s.ma.resplen [b]
      resplen := s.ma.resplen + 1
      got := true
      tlast := s.now }
  else (s.withLine { s.line with rxfifo := rest }).withMa { s.ma with ovf := true, got := true, tlast := s.now }

/-- Receive (R231): deadline, byte, data stopped, poll again, in that order (R298). -/
def receiveStep (c : Params) (s : State) : State :=
  if deadlineReached c s then finishStep s
  else match s.line.rxfifo with
    | b :: rest => takeByte c b rest s
    | [] => if dataStopped c s then finishStep s else s

/-- Abort (R236): in any phase but IDLE while `io_fault` is asserted. What is left of the bytes pushed is a prefix of
free length (X6, log 26). -/
def abortStep (s : State) : State :=
  if s.ma.phase ≠ .idle ∧ s.line.ioFault then
    (release ⟨true, .transportFault, false, []⟩
      (s.withLine { s.line with txq := s.line.txq.take (Config.keptPrefix s.freeCtr) })).useFree
  else s

/-- MA takes the step of its phase (R242). -/
def maStep (c : Params) (s : State) : Result :=
  match s.ma.phase with
  | .idle => .next s
  | .drain => .next (drainStep s)
  | .write => writeStep s
  | .flush => .next (flushStep s)
  | .recv => .next (receiveStep c s)

/-- XFER (R221): the post step of requester `i` (R223). -/
def execXfer (i : Nat) (frame : List Byte) (tmo : Nat) (s : State) : Result := post Config.params i frame tmo s

end Sys2Proof.Machine
end

