-- ==== Sys2Proof/Machine/Checksum.lean ====
section
/-! DEFINITION. The checksum units XG and SG (spec/40_checksum.md): XORSUM, ADDSUM, VERIFY, the two verify
pseudo-operations of R120, and the micro-steps of R133 and R137. When another unit needs a fold it uses the function
only (R130). -/

namespace Sys2Proof.Machine

/-- VERIFY (R139): the strategy's unit folds the range into its accumulator (R22, R23) and compares. -/
def verifyState (g : Bool) (bs : List Byte) (k : Byte) (s : State) : State :=
  if g then s.withSg ⟨addFold bs, .bit (verifies g bs k)⟩ else s.withXg ⟨xorFold bs, .bit (verifies g bs k)⟩

/-- The accumulator after a micro-step, `comb` being the unit's absorb (R133, R137). -/
def microAcc (comb : Byte → Byte → Byte) (acc : Byte) : Micro → Byte
  | .clear => 0x00
  | .absorb b => comb acc b
  | .clearAbsorb b => b
  | .read => acc

/-- The result port after a micro-step: only read has a result (log 41). -/
def microOut (acc : Byte) (out : UnitResult) : Micro → UnitResult
  | .read => .byte acc
  | .clear | .absorb _ | .clearAbsorb _ => out

/-- A micro-step of XG (R133). -/
def xgMicroStep (m : Micro) (s : State) : State :=
  s.withXg ⟨microAcc (fun a b => a ^^^ b) s.xg.acc m, microOut s.xg.acc s.xg.out m⟩

/-- A micro-step of SG (R137). -/
def sgMicroStep (m : Micro) (s : State) : State :=
  s.withSg ⟨microAcc (fun a b => a + b) s.sg.acc m, microOut s.sg.acc s.sg.out m⟩

/-- XORSUM (R131). -/
def execXorsum (bs : List Byte) (s : State) : Result := .next (s.withXg ⟨xorFold bs, .byte (xorFold bs)⟩)

/-- ADDSUM (R135). -/
def execAddsum (bs : List Byte) (s : State) : Result := .next (s.withSg ⟨addFold bs, .byte (addFold bs)⟩)

/-- VERIFY (R139). -/
def execVerify (g : Bool) (bs : List Byte) (k : Byte) (s : State) : Result := .next (verifyState g bs k s)

/-- XVERIFY, that is `VERIFY 0, s, c` (R120). -/
def execXverify (bs : List Byte) (k : Byte) (s : State) : Result := .next (verifyState false bs k s)

/-- AVERIFY, that is `VERIFY 1, s, c` (R120). -/
def execAverify (bs : List Byte) (k : Byte) (s : State) : Result := .next (verifyState true bs k s)

end Sys2Proof.Machine
end

