-- ==== Sys2Proof/Machine/FrameBinary.lean ====
section
/-! DEFINITION. The audio-protocol frame units FE and FD (spec/41_frame_binary.md): FENC and its forms, FPARSE, FDEC.
Each is a pure function of its operands and the catalogue (R150), and an operation that writes its unit's registers. -/

namespace Sys2Proof.Machine

/-! ### FENC -/

/-- FENC (R151): the Frame, or `UnknownOpcode` before `ParamCountError` (R152, R153). -/
def fencFn (c : Params) (sel : Nat) (p : List Byte) : Except Err (List Byte) :=
  match catEntry c sel with
  | none => .error ⟨.unknownOpcode, .sel sel⟩
  | some e =>
    if p.length ≠ e.paramByteLength then .error ⟨.paramCount, .selCount sel p.length⟩
    else
      let body := BitVec.ofNat 8 (3 + p.length) :: e.code :: p
      .ok (Config.startByte :: (body ++ [xorFold body, Config.endByte]))

/-- FENC as an operation of FE (R24, R150, R151). -/
def fencOp (c : Params) (sel : Nat) (p : List Byte) (s : State) : State :=
  match fencFn c sel p with
  | .error e => raiseErr (.fenc sel p) e s
  | .ok f => clearErr (.fenc sel p) (.frame f) (s.withFe { s.fe with fbuf := memWrite s.fe.fbuf 0 f, flen := f.length })

/-! ### FPARSE -/

/-- FPARSE (R170), its checks in the order of R171. -/
def fparseFn (c : Params) (bs : List Byte) : Except Err (Nat × Byte × List Byte) :=
  let len := (bs.getD 1 0).toNat
  let range := (bs.drop 1).take (len - 1)
  let params := (bs.drop 3).take (len - 3)
  let cmd := bs.getD 2 0
  if bs.length < 5 then .error ⟨.framing, .short⟩
  else if bs.getD 0 0 ≠ Config.startByte then .error ⟨.framing, .start⟩
  else if len < 3 ∨ 5 < len then .error ⟨.framing, .length⟩
  else if bs.length ≠ len + 2 then .error ⟨.framing, .size⟩
  else if bs.getD (len + 1) 0 ≠ Config.endByte then .error ⟨.framing, .ending⟩
  else if !verifies false range (bs.getD len 0) then .error ⟨.checksum, .sums (xorFold range) (bs.getD len 0)⟩
  else match catIndex c cmd with
    | none => .error ⟨.unknownOpcode, .cmd cmd⟩
    | some i =>
      if (catEntry c i).map CatEntry.paramByteLength ≠ some (len - 3) then
        .error ⟨.paramCount, .selCount i (len - 3)⟩
      else .ok (i, cmd, params)

/-- FPARSE as an operation of FD (R25, R150, R170); its operand is in `RBUF`. -/
def fparseOp (c : Params) (bs : List Byte) (s : State) : State :=
  let s := loadRbuf bs s
  match fparseFn c bs with
  | .error e => raiseErr .fd e s
  | .ok (i, cmd, p) =>
    clearErr .fd (.parsed i cmd p)
      (s.withFd { s.fd with kind := .frame, sel := i, cmd := cmd, np := p.length, par := memWrite s.fd.par 0 p })

/-! ### FDEC -/

/-- FDEC (R174): emptiness on the raw bytes, then ACK, then HEX (R175 to R178). -/
def fdecFn (c : Params) (r : List Byte) : Except Err Reply :=
  let t := stripBytes c.stripSet r
  if r.isEmpty then .error ⟨.transportTimeout, .none⟩
  else if c.ackPrefix.isPrefixOf t then .ok (.ack (t.drop c.ackPrefix.length))
  else if !t.isEmpty && t.all ishex then .ok (.hex (hexNumeral t))
  else .error ⟨.framing, .raw r⟩

/-- FDEC as an operation of FD (R25, R150, R174); its operand is in `RBUF`. -/
def fdecOp (c : Params) (r : List Byte) (s : State) : State :=
  let s := loadRbuf r s
  match fdecFn c r with
  | .error e => raiseErr .fd e s
  | .ok (.ack rest) => clearErr .fd (.reply (.ack rest)) (s.withFd { s.fd with kind := .ack, rest := rest })
  | .ok (.hex v) => clearErr .fd (.reply (.hex v)) (s.withFd { s.fd with kind := .hex, val := v })

/-! ### The meanings -/

/-- FENC (R151). -/
def execFenc (opSel : BitVec 4) (p : List Byte) (s : State) : Result :=
  .next (fencOp Config.params opSel.toNat p s)

/-- FENC.PLAY (R156). -/
def execFencPlay (p : List Byte) (s : State) : Result := .next (fencOp Config.params 0 p s)

/-- FENC.PAUSE (R157). -/
def execFencPause (p : List Byte) (s : State) : Result := .next (fencOp Config.params 1 p s)

/-- FENC.NEXT (R158). -/
def execFencNext (p : List Byte) (s : State) : Result := .next (fencOp Config.params 2 p s)

/-- FENC.PREV (R159). -/
def execFencPrev (p : List Byte) (s : State) : Result := .next (fencOp Config.params 3 p s)

/-- FENC.VOLUP (R160). -/
def execFencVolup (p : List Byte) (s : State) : Result := .next (fencOp Config.params 4 p s)

/-- FENC.VOLDN (R161). -/
def execFencVoldn (p : List Byte) (s : State) : Result := .next (fencOp Config.params 5 p s)

/-- FENC.STANDBY (R162). -/
def execFencStandby (p : List Byte) (s : State) : Result := .next (fencOp Config.params 6 p s)

/-- FENC.RESET (R163): a Frame like any other; it resets the audio module, not the block. -/
def execFencReset (p : List Byte) (s : State) : Result := .next (fencOp Config.params 7 p s)

/-- FENC.STOP (R164). -/
def execFencStop (p : List Byte) (s : State) : Result := .next (fencOp Config.params 8 p s)

/-- FENC.QSTATE (R165). -/
def execFencQstate (p : List Byte) (s : State) : Result := .next (fencOp Config.params 9 p s)

/-- FENC.QQTY (R166). -/
def execFencQqty (p : List Byte) (s : State) : Result := .next (fencOp Config.params 10 p s)

/-- FENC.SETVOL (R167). -/
def execFencSetvol (p : List Byte) (s : State) : Result := .next (fencOp Config.params 11 p s)

/-- FENC.SETLOOP (R168). -/
def execFencSetloop (p : List Byte) (s : State) : Result := .next (fencOp Config.params 12 p s)

/-- FENC.SELTRK (R169). -/
def execFencSeltrk (p : List Byte) (s : State) : Result := .next (fencOp Config.params 13 p s)

/-- FENC.SELTRK16, that is `FENC.SELTRK [n[15:8], n[7:0]]` (R120). -/
def execFencSeltrk16 (n : BitVec 16) (s : State) : Result := .next (fencOp Config.params 13 (split16 n) s)

/-- FPARSE (R170); an operand longer than `RBUF` is refused at the port (R82). -/
def execFparse (bs : List Byte) (s : State) : Result :=
  if fits Config.params.respMax bs then .next (fparseOp Config.params bs s) else .refused .operandTooLong

/-- FDEC (R174); an operand longer than `RBUF` is refused at the port (R82, RF1). -/
def execFdec (r : List Byte) (s : State) : Result :=
  if fits Config.params.respMax r then .next (fdecOp Config.params r s) else .refused .operandTooLong

end Sys2Proof.Machine
end

