-- ==== Sys2Proof/Machine/FrameHex.lean ====
section
/-! DEFINITION. The sensor-bridge frame units HE and HD (spec/42_frame_hex.md): HEXLIFY, UNHEX, HENC, HDEC. -/

namespace Sys2Proof.Machine

/-- UNHEX (R193): odd length first, then a bad digit (R195). -/
def unhexFn (t : List Byte) : Except Err (List Byte) :=
  if t.length % 2 = 1 then .error ⟨.framing, .odd⟩
  else if !t.all ishex then .error ⟨.framing, .digit⟩
  else .ok (pairBytes t)

/-- The reply HexFrame of HENC as raw bytes (R101, R200). -/
def hencBytes (w : Word32) : List Byte :=
  let body := Config.hexHeader ++ [0x08] ++ split32 w
  body ++ [addFold body]

/-- HDEC on the decoded bytes (R205): emptiness, the checksum, then recognition (R206, R207, R209). -/
def hdecBytes (bs : List Byte) : Except Err Verdict :=
  if bs.isEmpty then .error ⟨.framing, .empty⟩
  else if !verifies true bs.dropLast (bs.getLastD 0) then
    .error ⟨.checksum, .sums (addFold bs.dropLast) (bs.getLastD 0)⟩
  else if bs = Config.readWeightReq then .ok .readWeight
  else .ok .unrecognised

/-- HDEC (R205). -/
def hdecFn (t : List Byte) : Except Err Verdict :=
  match unhexFn t with
  | .error e => .error e
  | .ok bs => hdecBytes bs

/-- The value of `HD_VERDICT` for a verdict (R27). -/
def Verdict.register : Verdict → HdVerdict
  | .readWeight => .readWeight
  | .unrecognised => .unrecognised

/-- HEXLIFY as an operation of HE (R192): the text is at the result port; `HBUF` and `HTXT` are not written (log 12). -/
def hexlifyOp (c : Params) (bs : List Byte) (s : State) : State :=
  s.withHe { s.he with err := .noError, out := .text (hexText c.hexCase bs) }

/-- The decoded bytes are put in HD's scratch buffer (R27). -/
def writeScratch (bs : List Byte) (s : State) : State :=
  s.withHd { s.hd with scratch := memWrite s.hd.scratch 0 bs }

/-- UNHEX as an operation of HD (R193); its operand is in `TBUF`. One that raises sets `HD_VERDICT` to 3 (R299); one that
succeeds leaves it (log 12). -/
def unhexOp (t : List Byte) (s : State) : State :=
  let s := loadTbuf t s
  match unhexFn t with
  | .error e => raiseErr .hd e s
  | .ok bs => clearErr .hd (.bytes bs) (writeScratch bs s)

/-- HENC as an operation of HE (R200). -/
def hencOp (c : Params) (w : Word32) (s : State) : State :=
  let h := hencBytes w
  let x := hexText c.hexCase h
  s.withHe ⟨memWrite s.he.hbuf 0 h, memWrite s.he.htxt 0 x, true, .noError, .hexReply h x⟩

/-- The verdict register (R205). -/
def setVerdict (v : Verdict) (s : State) : State := s.withHd { s.hd with verdict := v.register }

/-- HDEC as an operation of HD (R205); its operand is in `TBUF`. One that raises has written nothing but `HD_VERDICT`
and `HD_ERR` (R299). -/
def hdecOp (t : List Byte) (s : State) : State :=
  let s := loadTbuf t s
  match unhexFn t with
  | .error e => raiseErr .hd e s
  | .ok bs =>
    match hdecBytes bs with
    | .error e => raiseErr .hd e s
    | .ok v => clearErr .hd (.verdict v) (setVerdict v (writeScratch bs s))

/-! ### The meanings -/

/-- HEXLIFY (R192). -/
def execHexlify (bs : List Byte) (s : State) : Result := .next (hexlifyOp Config.params bs s)

/-- UNHEX (R193); a text longer than `TBUF` is refused at the port (R82, RF1). -/
def execUnhex (t : List Byte) (s : State) : Result :=
  if fits Config.params.txtMax t then .next (unhexOp t s) else .refused .operandTooLong

/-- HENC (R200). -/
def execHenc (w : Word32) (s : State) : Result := .next (hencOp Config.params w s)

/-- HDEC (R205); a text longer than `TBUF` is refused at the port (R82, RF1). -/
def execHdec (t : List Byte) (s : State) : Result :=
  if fits Config.params.txtMax t then .next (hdecOp t s) else .refused .operandTooLong

end Sys2Proof.Machine
end

