-- ==== Sys2Proof/Machine/HostSeq.lean ====
section
/-! DEFINITION. The host sequences around the block (spec/44_host_sequences.md) and CMD (spec/30_encoding.md R120). Each
is a composition of block operations in program order; a requester context, and WeightReplyService, takes one of them per
step and is blocked during XFER (R260, log 16, log 21). -/

namespace Sys2Proof.Machine

/-! ### What the sequences make of a reply -/

/-- GETSTATE's reading of FDEC's answer (R262). -/
def stateResult : Except Err Reply → Except Err PlayState
  | .error e => .error e
  | .ok (.ack _) => .error ⟨.protocol, .shape⟩
  | .ok (.hex v) =>
    match playStateOf v with
    | some p => .ok p
    | none => .error ⟨.protocol, .playState v⟩

/-- The quantity field of R264: exactly four hex digits, most significant first. -/
def quantityOf (d : List Byte) : Option Nat :=
  if d.length = 4 ∧ d.all ishex then some (hexNumeral d) else none

/-- RANDOMPLAY's reading of the quantity reply (R263, R264); a quantity of 0 has no valid range (R265). -/
def quantityResult : Except Err Reply → Except Err Nat
  | .error e => .error e
  | .ok (.hex _) => .error ⟨.protocol, .shape⟩
  | .ok (.ack d) =>
    match quantityOf d with
    | none => .error ⟨.protocol, .quantityFormat⟩
    | some 0 => .error ⟨.protocol, .zeroQuantity⟩
    | some (q + 1) => .ok (q + 1)

/-- RANDOMPLAY's reading of the track-select reply (R265). -/
def selectResult (n : Nat) : Except Err Reply → HostResult
  | .error e => .err e
  | .ok (.hex _) => .err ⟨.protocol, .missingAck⟩
  | .ok (.ack _) => .played n

/-- CMD's result (R120). -/
def replyResult : Except Err Reply → HostResult
  | .error e => .err e
  | .ok r => .reply r

/-- TRIGGER calls RANDOMPLAY only from CUSTOM or PAUSED (R267). -/
def mayPlay : PlayState → Bool
  | .custom | .paused => true
  | .playing | .fastForward | .fastReverse => false

/-! ### The steps of a sequence -/

/-- FENC in a sequence: on an error the sequence ends with it, else the frame is built and XFER comes next. -/
def buildStep (c : Params) (trig : Bool) (i sel : Nat) (p : List Byte) (pc : List Byte → HostPc) (s : State) : State :=
  match fencFn c sel p with
  | .error e => finishSeq c trig i (.err e) (fencOp c sel p s)
  | .ok f => (fencOp c sel p s).setTask c i (pc f)

/-- XFER in a sequence: the post step (R223). -/
def postStep (c : Params) (i : Nat) (frame : List Byte) (tmo : Nat) (pc : HostPc) (s : State) : Result :=
  match post c i frame tmo s with
  | .next s' => .next (s'.setTask c i pc)
  | .fault f => .fault f
  | .refused r => .refused r

/-- The end of XFER in a sequence: once the result is valid, `TransportFault` propagates (R262), else FDEC decodes the
bytes; `k` goes on with the answer. -/
def replyStep (c : Params) (i : Nat) (k : Except Err Reply → State → State) (s : State) : Result :=
  if !(s.resOf i).valid then .next s
  else if (s.resOf i).err = .transportFault then .next (k (.error ⟨.transportFault, .none⟩) s)
  else if fits c.respMax (s.resOf i).bytes then
    .next (k (fdecFn c (s.resOf i).bytes) (fdecOp c (s.resOf i).bytes s))
  else .refused .operandTooLong

/-- GETSTATE's end (R262); inside TRIGGER a state of CUSTOM or PAUSED leads to RANDOMPLAY (R267). -/
def stateEnd (c : Params) (trig : Bool) (i tmo : Nat) (y : Except Err Reply) (s : State) : State :=
  match stateResult y with
  | .error e => finishSeq c trig i (.err e) s
  | .ok p =>
    if trig && mayPlay p then (s.setResult i (.playState p)).setTask c i (.rqStart tmo)
    else finishSeq c trig i (.playState p) s

/-- The end of RANDOMPLAY's first half (R263 to R266): whatever error ends it, no second frame is sent. -/
def quantityEnd (c : Params) (trig : Bool) (i tmo n : Nat) (y : Except Err Reply) (s : State) : State :=
  match quantityResult y with
  | .error e => finishSeq c trig i (.err e) s
  | .ok q => s.useFree.setTask c i (.rsStart trig tmo (drawTrack n q s.freeCtr))

/-- The first step of CMD (R120), GETSTATE (R262) and RANDOMPLAY (R263): FENC; XFER and FDEC follow. -/
def beginCall (c : Params) (i : Nat) (call : HostCall) (s : State) : State :=
  match call with
  | .cmd op p tmo => buildStep c false i op.toNat p (fun f => .cmdPost f tmo) (s.setResult i .none)
  | .getstate tmo => buildStep c false i 9 [] (fun f => .gsPost false f tmo) (s.setResult i .none)
  | .randomplay tmo n => buildStep c false i 10 [] (fun f => .rqPost false f tmo n) (s.setResult i .none)

/-- Requester context `i` is asked for a sequence: it takes the first step, or, when it may not run, is ready to take it
(R273). A context that is blocked or in a sequence already can begin no other (R224, R260, RF2). -/
def startCall (c : Params) (i : Nat) (call : HostCall) (s : State) : Result :=
  if !portExists c i then .refused .noSuchRequester
  else if !s.ctxFree i then .refused .requesterBusy
  else if s.mayRun c i then .next (beginCall c i call s)
  else .next ((s.setResult i .none).setTask c i (.ready call))

/-- The next step of requester context `i`'s sequence. -/
def contextStep (c : Params) (i : Nat) (s : State) : Result :=
  match s.taskOf i with
  | .idle => .next s
  | .ready call => .next (beginCall c i call s)
  | .cmdPost f tmo => postStep c i f tmo .cmdWait s
  | .cmdWait => replyStep c i (fun y s => finishSeq c false i (replyResult y) s) s
  | .gsPost trig f tmo => postStep c i f tmo (.gsWait trig tmo) s
  | .gsWait trig tmo => replyStep c i (stateEnd c trig i tmo) s
  | .rqStart tmo => .next (buildStep c true i 10 [] (fun f => .rqPost true f tmo 0) s)
  | .rqPost trig f tmo n => postStep c i f tmo (.rqWait trig tmo n) s
  | .rqWait trig tmo n => replyStep c i (quantityEnd c trig i tmo n) s
  | .rsStart trig tmo n => .next (buildStep c trig i 13 (trackParams n) (fun f => .rsPost trig f tmo n) s)
  | .rsPost trig f tmo n => postStep c i f tmo (.rsWait trig n) s
  | .rsWait trig n => replyStep c i (fun y s => finishSeq c trig i (selectResult n y) s) s
  | .trigExit => .next ((s.withHost { s.host with trigIrqEnable := true }).setTask c i .idle)

/-- Requester context `i` takes the next step of its sequence, if it may run (R273, R276) and is not blocked (R223; log 6). -/
def hostStep (c : Params) (i : Nat) (s : State) : Result :=
  if s.mayRun c i && !s.blocked i then contextStep c i s else .next s

/-! ### The trigger interrupt (R267, R268) -/

/-- An edge arrives: it waits to be taken while the interrupt is enabled; while it is disabled it is remembered or lost
(U17, log 19). -/
def edgeArrives (s : State) : State :=
  if s.host.trigIrqEnable then s.withHost { s.host with edgePending := true }
  else
    (s.withHost
      { s.host with edgePending := s.host.edgePending || Config.edgeRemembered s.freeCtr }).useFree

/-- The interrupt is taken when it is enabled, an edge waits, the handler's context is free and no interrupt freeze is on
(R276): the interrupt disables itself and GETSTATE begins (R267). -/
def takeTrigger (c : Params) (s : State) : State :=
  if s.host.trigIrqEnable && s.host.edgePending && s.ctxFree c.trigReq && s.mayRun c c.trigReq then
    buildStep c true c.trigReq 9 [] (fun f => .gsPost true f c.trigTmo)
      ((s.withHost { s.host with trigIrqEnable := false, edgePending := false }).setResult c.trigReq .none)
  else s

/-! ### WeightReplyService (R270 to R272) -/

/-- The task is started; a task that has been started goes on as it was. -/
def startService (s : State) : State :=
  if s.host.service = .off then s.withHost { s.host with service := .atRead } else s

/-- The read of the bridge line: one burst, or nothing (R272). -/
def readBurst (s : State) : State :=
  match s.bridge.rx with
  | [] => s
  | b :: rest => (s.withBridge { s.bridge with rx := rest }).setService (if b.isEmpty then .atRead else .burst b)

/-- Where HDEC's answer leads: only READ_WEIGHT is replied to. -/
def afterVerdict : Except Err Verdict → ServicePc
  | .ok .readWeight => .weigh
  | .ok .unrecognised => .atRead
  | .error _ => .atRead

/-- The next step of the loop of R270. A text longer than `TXT_MAX` is refused at HDEC's port (R82, RF1). -/
def serviceBody (c : Params) (s : State) : Result :=
  match s.host.service with
  | .off => .next s
  | .atRead => .next (readBurst s)
  | .burst b => .next ((hexlifyOp c b s).setService (.text (hexText c.hexCase b)))
  | .text t =>
    if fits c.txtMax t then .next ((hdecOp t s).setService (afterVerdict (hdecFn t))) else .refused .operandTooLong
  | .weigh => .next (s.useFree.setService (.weighed (Config.weightSensor s.freeCtr)))
  | .weighed w => .next ((hencOp c w s).setService (.reply (hencBytes w)))
  | .reply h => .next ((s.withBridge { s.bridge with tx := s.bridge.tx ++ h }).setService .atRead)

/-- WeightReplyService takes its next step, if it may run (R273; log 6). -/
def serviceStep (c : Params) (s : State) : Result :=
  if s.serviceMayRun then serviceBody c s else .next s

/-! ### The meanings -/

/-- CMD (R120): FENC; the frame is then sent and the reply decoded, stopping at the first error. -/
def execCmd (r : Nat) (op : BitVec 4) (p : List Byte) (tmo : Nat) (s : State) : Result :=
  startCall Config.params r (.cmd op p tmo) s

/-- GETSTATE (R262): `FENC.QSTATE []`; XFER and FDEC follow. -/
def execGetstate (i tmo : Nat) (s : State) : Result := startCall Config.params i (.getstate tmo) s

/-- RANDOMPLAY (R263): `FENC.QQTY []`; the rest follows. -/
def execRandomplay (i tmo : Nat) (n : BitVec 16) (s : State) : Result :=
  startCall Config.params i (.randomplay tmo n.toNat) s

/-- TRIGGER (R267, R268): an edge, and the handler at once when it can start. -/
def execTrigger (s : State) : Result := .next (takeTrigger Config.params (edgeArrives s))

/-- WSERVE (R270): the task is started, if it has not been, and takes its next step. -/
def execWserve (s : State) : Result := serviceStep Config.params (startService s)

/-- WDFEED (R275): the feed restarts the watchdog's count. It runs in the feed timer's interrupt, so a freeze keeps it
from running (R276; log 24). -/
def execWdfeed (s : State) : Result := .next (if s.wd.irqFrozen then s else s.withWd { s.wd with count := 0 })

end Sys2Proof.Machine
end

