-- ==== Sys2Proof/Machine/Dispatch.lean ====
section
/-! DEFINITION. One arm per operation. -/

namespace Sys2Proof.Machine

open Sys2Proof

def exec (i : Instr) (s : State) : Host.Outcome State Fault Refusal :=
  match i with
  | .fencPlay p => Sys2Proof.Machine.execFencPlay p s
  | .fencPause p => Sys2Proof.Machine.execFencPause p s
  | .fencNext p => Sys2Proof.Machine.execFencNext p s
  | .fencPrev p => Sys2Proof.Machine.execFencPrev p s
  | .fencVolup p => Sys2Proof.Machine.execFencVolup p s
  | .fencVoldn p => Sys2Proof.Machine.execFencVoldn p s
  | .fencStandby p => Sys2Proof.Machine.execFencStandby p s
  | .fencReset p => Sys2Proof.Machine.execFencReset p s
  | .fencStop p => Sys2Proof.Machine.execFencStop p s
  | .fencQstate p => Sys2Proof.Machine.execFencQstate p s
  | .fencQqty p => Sys2Proof.Machine.execFencQqty p s
  | .fencSetvol p => Sys2Proof.Machine.execFencSetvol p s
  | .fencSetloop p => Sys2Proof.Machine.execFencSetloop p s
  | .fencSeltrk p => Sys2Proof.Machine.execFencSeltrk p s
  | .xorsum bs => Sys2Proof.Machine.execXorsum bs s
  | .addsum bs => Sys2Proof.Machine.execAddsum bs s
  | .verify g bs k => Sys2Proof.Machine.execVerify g bs k s
  | .fenc o p => Sys2Proof.Machine.execFenc o p s
  | .fparse bs => Sys2Proof.Machine.execFparse bs s
  | .fdec r => Sys2Proof.Machine.execFdec r s
  | .hexlify bs => Sys2Proof.Machine.execHexlify bs s
  | .unhex t => Sys2Proof.Machine.execUnhex t s
  | .henc w => Sys2Proof.Machine.execHenc w s
  | .hdec t => Sys2Proof.Machine.execHdec t s
  | .xfer r f tmo => Sys2Proof.Machine.execXfer r f tmo s
  | .getstate r tmo => Sys2Proof.Machine.execGetstate r tmo s
  | .randomplay r tmo n => Sys2Proof.Machine.execRandomplay r tmo n s
  | .trigger => Sys2Proof.Machine.execTrigger s
  | .wserve => Sys2Proof.Machine.execWserve s
  | .wdfeed => Sys2Proof.Machine.execWdfeed s
  | .fencSeltrk16 n => Sys2Proof.Machine.execFencSeltrk16 n s
  | .xverify bs k => Sys2Proof.Machine.execXverify bs k s
  | .averify bs k => Sys2Proof.Machine.execAverify bs k s
  | .cmd r o p tmo => Sys2Proof.Machine.execCmd r o p tmo s

end Sys2Proof.Machine
end

