-- ==== Sys2Proof/Machine/Environment.lean ====
section
/-! DEFINITION. The steps of the environment and of the requesters' ports (spec/43_bus_arbiter.md R243; spec/10_state.md
R39 to R45; spec/20_memory.md R81; spec/44_host_sequences.md R275, R276), and one move of one agent. -/

namespace Sys2Proof.Machine

/-! ### The audio line (R42, R43) -/

/-- The peer appends a byte to `RXFIFO`, at any time, in any phase. -/
def peerStep (b : Byte) (s : State) : State := s.withLine { s.line with rxfifo := s.line.rxfifo ++ [b] }

/-- The serialiser sends the oldest byte of the transmit path. -/
def serialiseStep (s : State) : State :=
  match s.line.txq with
  | [] => s
  | b :: rest => s.withLine { s.line with txq := rest, wire := s.line.wire ++ [b] }

/-! ### Time and the watchdog (R41, R275, R276) -/

/-- The feed timer's interrupt is taken on this tick: its period is over, and no freeze keeps it from running. Nothing else
does, a running trigger handler neither: the spec leaves open whether the feed can interrupt it (R296, N13), and here it can,
between any two steps of it (log 24). The timer counts on during a freeze, so a feed that fell due then is taken late, on
the first tick after it (log 24). -/
def feedFires (c : Params) (w : WatchdogState) : Bool := !w.irqFrozen && decide (c.wdFeed ≤ w.feedCount + 1)

/-- The watchdog and its feed timer after one tick. A feed that is due is made, also between two steps of the trigger
handler: which of the two interrupts has priority, and whether the feed can interrupt the handler, is left open (R274, R296,
N13; log 24). The feed restarts both counts, so after a feed that was late the period starts anew, and it comes before a test
of the window on the same tick (log 23, log 24). -/
def wdTick (c : Params) (w : WatchdogState) : WatchdogState :=
  if !w.armed then w
  else if feedFires c w then { w with count := 0, feedCount := 0 }
  else { w with count := w.count + 1, feedCount := w.feedCount + 1 }

/-- The window has passed with no feed. -/
def wdExpired (c : Params) (w : WatchdogState) : Bool := w.armed && decide (c.wdWindow ≤ w.count)

/-- One tick: `NOW` advances modulo `2^TICK_W`; an expired watchdog resets the device (R320). -/
def tickStep (c : Params) (s : State) : State :=
  let s := (s.withNow ((s.now + 1) % 2 ^ c.tickW)).withWd (wdTick c s.wd)
  if wdExpired c s.wd then deviceReset c s else s

/-- The host arms the watchdog and starts the feed timer (R323); when it is armed already, both counts restart (log 23). -/
def armStep (s : State) : State := s.withWd { s.wd with armed := true, count := 0, feedCount := 0 }

/-! ### The bridge line (R270, R272) -/

/-- Bytes reach the bridge line as one non-empty burst. -/
def bridgeStep (bs : List Byte) (s : State) : State :=
  if bs.isEmpty then s else s.withBridge { s.bridge with rx := s.bridge.rx ++ [bs] }

/-! ### Reading the result ports (R81, R331; X1, X2, X5, X7) -/

/-- `MemRead` at a result port. -/
def bufferVal (buf : List Byte) (len a n : Nat) : Except Fault PortVal :=
  match memRead buf len a n with
  | some v => .ok (.bytes v)
  | none => .error .readBeyondValid

/-- An FD register, which reads only while `FD_KIND` names its kind (X2). -/
def fdRegister (s : State) (k : FdKind) (v : PortVal) : Except Fault PortVal :=
  if s.fd.kind = k then .ok v else .error .registerNotValid

/-- A field of `RES[i]`, which reads until the requester's next operation has started (R331, X7). -/
def resField (s : State) (i : Nat) (v : PortVal) : Except Fault PortVal :=
  if s.blocked i then .error .staleResult else .ok v

/-- HE's buffers hold the reply from HENC until HE's next operation starts (R26, R331). -/
def replyBuffer (s : State) (buf : List Byte) (len a n : Nat) : Except Fault PortVal :=
  if !s.he.hvalid then .error .readBeyondValid
  else match s.he.out with
    | .hexReply _ _ => bufferVal buf len a n
    | _ => .error .staleResult

/-- What a requester reads. -/
def readPort (s : State) : PortReg → Except Fault PortVal
  | .fbuf a n => bufferVal s.fe.fbuf s.fe.flen a n
  | .hbuf a n => replyBuffer s s.he.hbuf 8 a n
  | .htxt a n => replyBuffer s s.he.htxt 16 a n
  | .flen => .ok (.num s.fe.flen)
  | .feErr => .ok (.num s.fe.err.number.toNat)
  | .fdKind => .ok (.num s.fd.kind.number.toNat)
  | .fdVal => fdRegister s .hex (.num s.fd.val)
  | .fdRest => fdRegister s .ack (.bytes s.fd.rest)
  | .fdCmd => fdRegister s .frame (.num s.fd.cmd.toNat)
  | .fdSel => fdRegister s .frame (.num s.fd.sel)
  | .fdNp => fdRegister s .frame (.num s.fd.np)
  | .fdPar => fdRegister s .frame (.bytes (s.fd.par.take s.fd.np))
  | .fdErr => .ok (.num s.fd.err.number.toNat)
  | .hvalid => .ok (.num s.he.hvalid.toNat)
  | .heErr => .ok (.num s.he.err.number.toNat)
  | .hdVerdict => .ok (.num s.hd.verdict.number.toNat)
  | .hdErr => .ok (.num s.hd.err.number.toNat)
  | .resValid i => .ok (.num (s.resOf i).valid.toNat)
  | .resErr i => resField s i (.num (s.resOf i).err.number.toNat)
  | .resOvf i => resField s i (.num (s.resOf i).ovf.toNat)
  | .resBytes i => resField s i (.bytes (s.resOf i).bytes)

/-- Context `who` may present an operation or read a port: a requester that is not blocked (R223), and nothing more is
assumed of it (R328); a context that uses no port of MA always may (log 35). -/
def State.mayPresent (s : State) (who : Option Nat) : Bool :=
  match who with
  | none => true
  | some i => !s.blocked i

/-- The register exists: a result slot does for each requester (R35). -/
def slotExists (c : Params) : PortReg → Bool
  | .resValid i | .resErr i | .resOvf i | .resBytes i => portExists c i
  | .fbuf _ _ | .hbuf _ _ | .htxt _ _ | .flen | .feErr | .fdKind | .fdVal | .fdRest | .fdCmd | .fdSel | .fdNp | .fdPar
  | .fdErr | .hvalid | .heErr | .hdVerdict | .hdErr => true

/-- A context reads a result port; one that is blocked takes no step (R223). Any context may read any requester's result
slot, which the spec does not say (R307; log 38). -/
def portReadStep (c : Params) (who : Option Nat) (r : PortReg) (s : State) : Result :=
  if !s.mayPresent who then .next s
  else if !slotExists c r then .refused .noSuchRequester
  else match readPort s r with
    | .ok v => .next (s.withHost { s.host with readout := v })
    | .error f => .fault f

/-! ### One move of one agent -/

/-- The move of every agent but a requester that presents an operation. -/
def agentStep (c : Params) (e : Ev) (s : State) : Result :=
  match e with
  | .op _ => .next s
  | .hostStep i => hostStep c i s
  | .grant i => .next (grantStep i s)
  | .ma => maStep c s
  | .abort => .next (abortStep s)
  | .tick => .next (tickStep c s)
  | .peer b => .next (peerStep b s)
  | .serialise => .next (serialiseStep s)
  | .txReady b => .next (s.withLine { s.line with txReady := b })
  | .ioFault b => .next (s.withLine { s.line with ioFault := b })
  | .xgMicro m => .next (xgMicroStep m s)
  | .sgMicro m => .next (sgMicroStep m s)
  | .portRead who r => portReadStep c who r s
  | .bridgeBurst bs => .next (bridgeStep bs s)
  | .serve => serviceStep c s
  | .edge => .next (edgeArrives s)
  | .takeIrq => .next (takeTrigger c s)
  | .armWatchdog => .next (armStep s)
  | .irqFreeze b => .next (s.withWd { s.wd with irqFrozen := b })
  | .reset => .next (deviceReset c s)

end Sys2Proof.Machine
end

