-- ==== Sys2Proof/Machine/Fetch.lean ====
section
/-! DEFINITION. Fetching the next operation of the command stream and running it; one event; the event that comes next
(log 1, log 5). -/

namespace Sys2Proof.Machine

/-- The requester whose port an operation uses (R221). -/
def portOf : Instr → Option Nat
  | .xfer i _ _ | .getstate i _ | .randomplay i _ _ | .cmd i _ _ _ => some i
  | .fencPlay _ | .fencPause _ | .fencNext _ | .fencPrev _ | .fencVolup _ | .fencVoldn _ | .fencStandby _
  | .fencReset _ | .fencStop _ | .fencQstate _ | .fencQqty _ | .fencSetvol _ | .fencSetloop _ | .fencSeltrk _
  | .xorsum _ | .addsum _ | .verify _ _ _ | .fenc _ _ | .fparse _ | .fdec _ | .hexlify _ | .unhex _ | .henc _
  | .hdec _ | .trigger | .wserve | .wdfeed | .fencSeltrk16 _ | .xverify _ _ | .averify _ _ => none

/-- The operations that begin a sequence of a requester context (R120, R260). -/
def startsSequence : Instr → Bool
  | .getstate _ _ | .randomplay _ _ _ | .cmd _ _ _ _ => true
  | .fencPlay _ | .fencPause _ | .fencNext _ | .fencPrev _ | .fencVolup _ | .fencVoldn _ | .fencStandby _
  | .fencReset _ | .fencStop _ | .fencQstate _ | .fencQqty _ | .fencSetvol _ | .fencSetloop _ | .fencSeltrk _
  | .xorsum _ | .addsum _ | .verify _ _ _ | .fenc _ _ | .fparse _ | .fdec _ | .hexlify _ | .unhex _ | .henc _
  | .hdec _ | .xfer _ _ _ | .trigger | .wserve | .wdfeed | .fencSeltrk16 _ | .xverify _ _ | .averify _ _ => false

/-- A requester context takes its sequences one after another, in program order (R260; log 16): it leaves the next one
waiting. -/
def inOrder (who : Option Nat) (i : Instr) (s : State) : Bool :=
  match who with
  | none => true
  | some k => !startsSequence i || decide (s.taskOf k = .idle)

/-- An operation that uses a requester's port is that requester's (R221: "fixed by the port used"). -/
def ownPort (who : Option Nat) (i : Instr) : Bool :=
  who.isNone || (portOf i).isNone || decide (portOf i = who)

/-- Context `who` presents the next operation of the command stream: it is decoded, taken off the stream and run. When the
stream is empty no operation is waiting, and a context that is blocked (R223), or in a sequence when the operation begins
another, leaves it waiting (log 6, log 35). -/
def issueOp (who : Option Nat) (s : State) : Result :=
  if s.cmds.isEmpty || !s.mayPresent who then .next s
  else match decode s.cmds with
    | .ok (i, rest) =>
      if !ownPort who i then .refused .noSuchRequester
      else if inOrder who i s then exec i (s.withCmds rest)
      else .next s
    | .error e => .refused (.undecodable e)

/-- One event. -/
def runEvent (e : Ev) (s : State) : Result :=
  match e with
  | .op who => issueOp who s
  | _ => agentStep Config.params e s

/-- The event that comes next, and the state it finds: the head of the agenda, else a free value. -/
def nextEvent (s : State) : Ev × State :=
  match s.agenda with
  | e :: es => (e, s.withAgenda es)
  | [] => (Config.freeEvent s.freeCtr, s.useFree)

/-- Place the operation of a table word at the front of the command stream, and its presentation at the front of the
agenda. -/
def placeWord (s : State) (nbits w : Nat) : State :=
  (s.withCmds (tableOperation nbits w ++ s.cmds)).withAgenda (.op none :: s.agenda)

end Sys2Proof.Machine
end

