-- ==== Sys2Proof/Safety.lean ====
section
/-! DEFINITION. What claims are stated in: the form of the buffers, the invariant of the block, what a step may change,
and runs of several events. -/

namespace Sys2Proof.Machine

/-! ### The form of the private buffers (R39, R81)

The block has no addressed memory; its storage is the buffers of R39 with their length registers (log 39). -/

/-- `n` is within a capacity. -/
def withinCap (cap : Option Nat) (n : Nat) : Bool :=
  match cap with
  | none => true
  | some m => decide (n ≤ m)

/-- Every buffer has its size, every length register is within what its buffer holds, `FLEN` is a legal value and `FD_SEL` a
catalogue index (R24 to R27, R36, R39, R40). -/
def Memory.wf (c : Params) (s : State) : Bool :=
  s.fe.fbuf.length == 7 && (s.fe.flen == 0 || s.fe.flen == 5 || s.fe.flen == 6 || s.fe.flen == 7)
  && decide (s.fd.rlen ≤ s.fd.rbuf.length) && withinCap c.respMax s.fd.rbuf.length
  && s.fd.par.length == 2 && decide (s.fd.np ≤ 2) && decide (s.fd.sel < 14)
  && s.he.hbuf.length == 8 && s.he.htxt.length == 16
  && decide (s.hd.tlen ≤ s.hd.tbuf.length) && withinCap c.txtMax s.hd.tbuf.length
  && withinCap (c.txtMax.map (· / 2)) s.hd.scratch.length
  && decide (s.ma.txflen ≤ s.ma.txf.length) && withinCap c.txfMax s.ma.txf.length
  && decide (s.ma.resplen ≤ s.ma.resp.length) && withinCap c.respMax s.ma.resp.length

/-! ### The invariant -/

/-- The numbers of a table are strictly rising. -/
def Table.wf {α : Type} (t : Table α) : Prop := (t.map Prod.fst).Pairwise (· < ·)

/-- The sequence a context is in belongs to TRIGGER (R267). -/
def HostPc.inTrigger : HostPc → Bool
  | .gsPost t _ _ | .gsWait t _ | .rqPost t _ _ _ | .rqWait t _ _ | .rsStart t _ _ | .rsPost t _ _ _
  | .rsWait t _ => t
  | .rqStart _ | .trigExit => true
  | .idle | .ready _ | .cmdPost _ _ | .cmdWait => false

/-- The context is inside an XFER of its sequence (R260). -/
def HostPc.inXfer : HostPc → Bool
  | .cmdWait | .gsWait _ _ | .rqWait _ _ _ | .rsWait _ _ => true
  | .idle | .ready _ | .cmdPost _ _ | .gsPost _ _ _ | .rqStart _ | .rqPost _ _ _ _ | .rsStart _ _ _ | .rsPost _ _ _ _
  | .trigExit => false

/-- The frame a context is about to hand to XFER. -/
def HostPc.frame : HostPc → List Byte
  | .cmdPost f _ | .gsPost _ f _ | .rqPost _ f _ _ | .rsPost _ f _ _ => f
  | .idle | .ready _ | .cmdWait | .gsWait _ _ | .rqStart _ | .rqWait _ _ _ | .rsStart _ _ _ | .rsWait _ _ | .trigExit => []

/-- The invariant of the block and of the host contexts that use it. The clauses on MA are those of R241. -/
structure Inv (c : Params) (s : State) : Prop where
  buffers : Memory.wf c s = true
  /-- `LOCK = 0` exactly when `PHASE = IDLE` (R30, R241) -/
  lock_iff : s.ma.lock = false ↔ s.ma.phase = .idle
  /-- the owner's request is pending and its result is not valid (R241) -/
  owner_pending : s.ma.lock = true → (s.reqOf s.ma.owner).pending = true
  /-- a pending request comes from a port, and its requester has no valid result (R223) -/
  pending_port : ∀ i, (s.reqOf i).pending = true → portExists c i = true ∧ (s.resOf i).valid = false
  /-- the slots hold what fits them (R34, R35) -/
  slots_fit : ∀ i, withinCap c.txfMax (s.reqOf i).frame.length = true ∧ (s.reqOf i).tmo < 2 ^ c.tickW
    ∧ withinCap c.respMax (s.resOf i).bytes.length = true
  /-- `TXIDX ≤ TXFLEN` (R241) -/
  index_le : s.ma.txidx ≤ s.ma.txflen
  /-- `TXIDX` is 0 while it means nothing (R36, log 40) -/
  index_idle : s.ma.phase = .idle → s.ma.txidx = 0
  /-- the frame has been pushed whole before the flush (R229, R230) -/
  index_eq : s.ma.phase = .flush ∨ s.ma.phase = .recv → s.ma.txidx = s.ma.txflen
  /-- the samples of the counter are `TICK_W` bits wide (R36, R41) -/
  ticks : s.now < 2 ^ c.tickW ∧ s.ma.tmo < 2 ^ c.tickW ∧ s.ma.t0 < 2 ^ c.tickW ∧ s.ma.tlast < 2 ^ c.tickW
  /-- `HE_ERR` is always 0 (R28) -/
  he_err : s.he.err = .noError
  /-- `trigger_irq_enable = 0` exactly while the handler's context is in TRIGGER (R267) -/
  trigger_iff : s.host.trigIrqEnable = false ↔ (s.taskOf c.trigReq).inTrigger = true
  /-- no other context is in TRIGGER -/
  trigger_only : ∀ i, (s.taskOf i).inTrigger = true → i = c.trigReq
  /-- a context inside XFER has its request pending, or its result has come (R223) -/
  in_xfer : ∀ i, (s.taskOf i).inXfer = true → (s.reqOf i).pending = true ∨ (s.resOf i).valid = true
  /-- a context in a sequence has a port (R221), and the frame it is about to send is a Frame (R95) -/
  task_port : ∀ i, s.taskOf i ≠ .idle → portExists c i = true ∧ (s.taskOf i).frame.length ≤ 7
  /-- the task that has the processor is between two wait points, and WeightReplyService is there only when it has it (R273) -/
  running_task : (∀ i, s.host.running = some (.requester i) → i ≠ c.trigReq ∧ (s.taskOf i).waits = false)
    ∧ (s.host.running = some .weightReply ↔ s.host.service.waits = false)
  /-- the slots are in their one order -/
  tables : Table.wf s.ma.req ∧ Table.wf s.ma.res ∧ Table.wf s.host.task ∧ Table.wf s.host.result

/-- What has been pushed of the frame of the running transaction is the last thing handed to the audio line, in order
(R74, R229). -/
def SentInOrder (s : State) : Prop :=
  s.ma.phase = .write ∨ s.ma.phase = .flush ∨ s.ma.phase = .recv →
    (s.ma.txf.take s.ma.txidx) <:+ (s.line.wire ++ s.line.txq)

/-! ### Hex text -/

/-- The text `x` spells the bytes `d`: two hex digits per byte, high nibble first (R62). -/
def Spells (x d : List Byte) : Prop :=
  x.length = 2 * d.length ∧ (∀ c ∈ x, ishex c = true)
  ∧ ∀ k < d.length, (d.getD k 0).toNat = 16 * hexval (x.getD (2 * k) 0) + hexval (x.getD (2 * k + 1) 0)

/-! ### What a step may change -/

/-- Nothing but FE. -/
def OnlyFe (s t : State) : Prop := t = { s with fe := t.fe }

/-- Nothing but FD. -/
def OnlyFd (s t : State) : Prop := t = { s with fd := t.fd }

/-- Nothing but HD. -/
def OnlyHd (s t : State) : Prop := t = { s with hd := t.hd }

/-- The units that serve the pure operations (R118). -/
inductive PureUnit where
  | xg
  | sg
  | fe
  | fd
  | he
  | hd
  deriving DecidableEq, Repr

/-- The unit of a pure operation; none for XFER and the host sequences (R118). -/
def pureUnit : Instr → Option PureUnit
  | .xorsum _ | .verify false _ _ | .xverify _ _ => some .xg
  | .addsum _ | .verify true _ _ | .averify _ _ => some .sg
  | .fenc _ _ | .fencPlay _ | .fencPause _ | .fencNext _ | .fencPrev _ | .fencVolup _ | .fencVoldn _
  | .fencStandby _ | .fencReset _ | .fencStop _ | .fencQstate _ | .fencQqty _ | .fencSetvol _ | .fencSetloop _
  | .fencSeltrk _ | .fencSeltrk16 _ => some .fe
  | .fparse _ | .fdec _ => some .fd
  | .hexlify _ | .henc _ => some .he
  | .unhex _ | .hdec _ => some .hd
  | .xfer _ _ _ | .getstate _ _ | .randomplay _ _ _ | .trigger | .wserve | .wdfeed | .cmd _ _ _ _ => none

/-- Nothing but the unit `u`: no unit writes another's state (R20). -/
def OnlyUnit (u : PureUnit) (s t : State) : Prop :=
  match u with
  | .xg => t = { s with xg := t.xg }
  | .sg => t = { s with sg := t.sg }
  | .fe => OnlyFe s t
  | .fd => OnlyFd s t
  | .he => t = { s with he := t.he }
  | .hd => OnlyHd s t

/-- The device is reset by this event: a reset, or a tick on which the watchdog expires (R320). -/
def resetsDevice (c : Params) (e : Ev) (s : State) : Bool :=
  match e with
  | .reset => true
  | .tick => wdExpired c (wdTick c s.wd)
  | _ => false

/-- The watchdog is armed and its feed timer keeps up: what a run without an interrupt freeze keeps (R275, R276). -/
def FeedKeepsUp (c : Params) (w : WatchdogState) : Prop :=
  w.armed = true → w.irqFrozen = false → w.count ≤ w.feedCount ∧ w.feedCount ≤ c.wdFeed

/-! ### Runs -/

/-- Several events one after another, stopping at the first fault or refusal. -/
def runEvents : List Ev → State → Result
  | [], s => .next s
  | e :: es, s =>
    match runEvent e s with
    | .next t => runEvents es t
    | .fault f => .fault f
    | .refused r => .refused r

end Sys2Proof.Machine
end

