-- ==== Sys2Proof/Certificates/Slice0/Obligations.lean ====
section
/-! DEFINITION. The statements. Rules R<n> are those of spec/. -/

open Sys2Proof Sys2Proof.Machine

/-! ### XG and SG -/

/-- R131: XORSUM writes `XACC` with the exclusive-or of the bytes, bit by bit their parity, and nothing outside XG. -/
def Obligations.XorsumIsBitwiseParity : Prop :=
  ∀ (bs : List Byte) (s : State), ∃ b : Byte,
    exec (.xorsum bs) s = .next { s with xg := ⟨b, .byte b⟩ }
    ∧ ∀ k < 8, b.getLsbD k = decide ((bs.filter fun x => x.getLsbD k).length % 2 = 1)

/-- R132 and R136: the laws of XORSUM and of ADDSUM. -/
def Obligations.FoldLaws : Prop :=
  (xorFold [] = 0x00
    ∧ (∀ b, xorFold [b] = b)
    ∧ (∀ a b : List Byte, a.Perm b → xorFold a = xorFold b)
    ∧ (∀ a b, xorFold (a ++ b) = xorFold a ^^^ xorFold b)
    ∧ (∀ b, xorFold [b, b] = 0x00)
    ∧ (∀ s, xorFold (s ++ [xorFold s]) = 0x00)
    ∧ (∀ s, xorFold (s.filter fun b => b != 0) = xorFold s))
  ∧ addFold [] = 0x00
  ∧ (∀ b, addFold [b] = b)
  ∧ (∀ a b : List Byte, a.Perm b → addFold a = addFold b)
  ∧ (∀ a b, (addFold (a ++ b)).toNat = ((addFold a).toNat + (addFold b).toNat) % 256)
  ∧ addFold [0xFF, 0x01] = 0x00 ∧ addFold [0x80, 0x80] = 0x00 ∧ addFold [0xFF, 0xFF] = 0xFE
  ∧ addFold (List.replicate 256 0xFF) = 0x00
  ∧ (∀ s, (addFold s).toNat = (s.map BitVec.toNat).sum % 256)
  ∧ (∀ s, addFold (s.filter fun b => b != 0) = addFold s)
  ∧ (∀ s, (addFold (s ++ [addFold s])).toNat = (2 * (addFold s).toNat) % 256)

/-- R135: ADDSUM writes `SACC` with the low 8 bits of the exact sum, and nothing outside SG. -/
def Obligations.AddsumIsSumMod256 : Prop :=
  ∀ (bs : List Byte) (s : State), ∃ b : Byte,
    exec (.addsum bs) s = .next { s with sg := ⟨b, .byte b⟩ }
    ∧ b.toNat = (bs.map BitVec.toNat).sum % 256

/-- R139, and the two verify pseudo-operations of R120: the strategy's fold is compared with the expected byte; the
strategy's unit alone is written (its accumulator: log 11). -/
def Obligations.VerifyRecomputesAndCompares : Prop :=
  ∀ (bs : List Byte) (k : Byte) (s : State),
    (∀ i ∈ [Instr.verify false bs k, .xverify bs k], ∃ b : Byte,
      exec i s = .next { s with xg := ⟨b, .bit (b == k)⟩ }
      ∧ exec (.xorsum bs) s = .next { s with xg := ⟨b, .byte b⟩ })
    ∧ (∀ i ∈ [Instr.verify true bs k, .averify bs k], ∃ b : Byte,
      exec i s = .next { s with sg := ⟨b, .bit (b == k)⟩ }
      ∧ exec (.addsum bs) s = .next { s with sg := ⟨b, .byte b⟩ })

/-- R140: VERIFY accepts the recomputed checksum, and a single-bit corruption of the checked range or of the checksum
byte turns true into false, for both strategies; from false, a single-bit change can give either answer. -/
def Obligations.SingleBitCorruptionDetected : Prop :=
  ∀ g : Bool,
    (∀ bs : List Byte, verifies g bs (foldOf g bs) = true
      ∧ ∀ c : Byte, verifies g bs c = true →
        (∀ i < bs.length, ∀ k < 8,
          verifies g (bs.set i (bs.getD i 0 ^^^ BitVec.twoPow 8 k)) c = false)
        ∧ ∀ k < 8, verifies g bs (c ^^^ BitVec.twoPow 8 k) = false)
    ∧ ∃ (bs : List Byte) (c : Byte), verifies g bs c = false
      ∧ verifies g (bs.set 0 (bs.getD 0 0 ^^^ BitVec.twoPow 8 0)) c = true
      ∧ verifies g (bs.set 0 (bs.getD 0 0 ^^^ BitVec.twoPow 8 1)) c = false

/-- R133 and R137: the micro-steps; clear, absorb each byte in order, read is XORSUM (ADDSUM); clear and absorb in one
step clears first; read changes no accumulator. That only read writes the result port is the model's reading (log 41). -/
def Obligations.StreamingEqualsWholeSequence : Prop :=
  ∀ (bs : List Byte) (b : Byte) (s : State),
    let x := fun (m : Micro) (acc : Byte) =>
      runEvent (.xgMicro m) s = .next { s with xg := { s.xg with acc := acc } }
    let y := fun (m : Micro) (acc : Byte) =>
      runEvent (.sgMicro m) s = .next { s with sg := { s.sg with acc := acc } }
    (x .clear 0x00 ∧ x (.absorb b) (s.xg.acc ^^^ b) ∧ x (.clearAbsorb b) b
      ∧ runEvent (.xgMicro .read) s = .next { s with xg := ⟨s.xg.acc, .byte s.xg.acc⟩ }
      ∧ runEvents (.xgMicro .clear :: bs.map (fun x => Ev.xgMicro (.absorb x)) ++ [.xgMicro .read]) s
        = exec (.xorsum bs) s)
    ∧ y .clear 0x00 ∧ y (.absorb b) (s.sg.acc + b) ∧ y (.clearAbsorb b) b
    ∧ runEvent (.sgMicro .read) s = .next { s with sg := ⟨s.sg.acc, .byte s.sg.acc⟩ }
    ∧ runEvents (.sgMicro .clear :: bs.map (fun x => Ev.sgMicro (.absorb x)) ++ [.sgMicro .read]) s
      = exec (.addsum bs) s

/-! ### FE -/

/-- R156 to R166: each of the eleven forms without a parameter builds `7E 03 cc (03 xor cc) EF` in `FBUF` and changes
nothing else; with any parameter it is `ParamCountError`. -/
def Obligations.ZeroParameterFormsBuildFrame : Prop :=
  ∀ fc ∈ ([(.fencPlay, 0x01), (.fencPause, Config.params.codePause), (.fencNext, Config.params.codeNext),
      (.fencPrev, Config.params.codePrev), (.fencVolup, Config.params.codeVolup),
      (.fencVoldn, Config.params.codeVoldn), (.fencStandby, Config.params.codeStandby),
      (.fencReset, Config.params.codeReset), (.fencStop, Config.params.codeStop),
      (.fencQstate, Config.params.codeQstate), (.fencQqty, Config.params.codeQqty)]
      : List ((List Byte → Instr) × Byte)), ∀ s : State,
    (let f : List Byte := [0x7E, 0x03, fc.2, 0x03 ^^^ fc.2, 0xEF]
     exec (fc.1 []) s = .next { s with fe := ⟨f ++ s.fe.fbuf.drop 5, 5, .noError, .frame f⟩ })
    ∧ ∀ p, p ≠ [] → ∃ t, exec (fc.1 p) s = .next t ∧ OnlyFe s t ∧ t.fe.flen = 0 ∧ t.fe.err = .paramCount
      ∧ ∃ info, t.fe.out = .err ⟨.paramCount, info⟩

/-- R167, R168: the two forms with one parameter build `7E 04 cc p0 (04 xor cc xor p0) EF`; another number of
parameters is `ParamCountError`. -/
def Obligations.OneParameterFormsBuildFrame : Prop :=
  ∀ fc ∈ ([(.fencSetvol, 0x31), (.fencSetloop, Config.params.codeSetloop)]
      : List ((List Byte → Instr) × Byte)), ∀ s : State,
    (∀ p0 : Byte, let f : List Byte := [0x7E, 0x04, fc.2, p0, 0x04 ^^^ fc.2 ^^^ p0, 0xEF]
     exec (fc.1 [p0]) s = .next { s with fe := ⟨f ++ s.fe.fbuf.drop 6, 6, .noError, .frame f⟩ })
    ∧ ∀ p, p.length ≠ 1 → ∃ t, exec (fc.1 p) s = .next t ∧ OnlyFe s t ∧ t.fe.flen = 0
      ∧ t.fe.err = .paramCount ∧ ∃ info, t.fe.out = .err ⟨.paramCount, info⟩

/-- R169, and FENC.SELTRK16 of R120: select-track builds `7E 05 cc p0 p1 (05 xor cc xor p0 xor p1) EF`, the track number
high byte first; another number of parameters is `ParamCountError`. -/
def Obligations.SelectTrackBuildsFrame : Prop :=
  ∀ s : State,
    let frame := fun p0 p1 : Byte =>
      [0x7E, 0x05, Config.params.codeSeltrk, p0, p1, 0x05 ^^^ Config.params.codeSeltrk ^^^ p0 ^^^ p1, 0xEF]
    (∀ p0 p1 : Byte, exec (.fencSeltrk [p0, p1]) s
      = .next { s with fe := ⟨frame p0 p1 ++ s.fe.fbuf.drop 7, 7, .noError, .frame (frame p0 p1)⟩ })
    ∧ (∀ n : BitVec 16, ∃ p0 p1 : Byte, n.toNat = 256 * p0.toNat + p1.toNat
      ∧ exec (.fencSeltrk16 n) s
        = .next { s with fe := ⟨frame p0 p1 ++ s.fe.fbuf.drop 7, 7, .noError, .frame (frame p0 p1)⟩ })
    ∧ ∀ p, p.length ≠ 2 → ∃ t, exec (.fencSeltrk p) s = .next t ∧ OnlyFe s t ∧ t.fe.flen = 0
      ∧ t.fe.err = .paramCount ∧ ∃ info, t.fe.out = .err ⟨.paramCount, info⟩

/-- R151, R152, R153: FENC of a catalogue index. -/
def Obligations.FencBuildsOrRefuses : Prop :=
  ∀ (o : BitVec 4) (p : List Byte) (s : State),
    let arity := [0, 0, 0, 0, 0, 0, 0, 0, 0, 0, 0, 1, 1, 2].getD o.toNat 0
    let body := BitVec.ofNat 8 (3 + p.length) :: Config.params.codes.getD o.toNat 0 :: p
    let f := [0x7E] ++ body ++ [body.foldl (fun a b => a ^^^ b) 0] ++ [0xEF]
    (o.toNat ≤ 13 ∧ p.length = arity →
      exec (.fenc o p) s = .next { s with fe := ⟨f ++ s.fe.fbuf.drop f.length, f.length, .noError, .frame f⟩ })
    ∧ (o.toNat ≤ 13 ∧ p.length ≠ arity → ∃ t, exec (.fenc o p) s = .next t ∧ OnlyFe s t ∧ t.fe.flen = 0
      ∧ t.fe.err = .paramCount ∧ t.fe.out = .err ⟨.paramCount, .selCount o.toNat p.length⟩)
    ∧ (13 < o.toNat → ∃ t, exec (.fenc o p) s = .next t ∧ OnlyFe s t ∧ t.fe.flen = 0
      ∧ t.fe.err = .unknownOpcode ∧ t.fe.out = .err ⟨.unknownOpcode, .sel o.toNat⟩)

/-- R154: the laws of a Frame FENC built, and FENC is injective. -/
def Obligations.FencFrameLaws : Prop :=
  (∀ (sel : Nat) (p f : List Byte), fencFn Config.params sel p = .ok f →
    f.length = 5 + p.length ∧ f.getD 0 0 = 0x7E ∧ (f.getD 1 0).toNat = 3 + p.length
    ∧ some (f.getD 2 0) = Config.params.codes[sel]? ∧ (f.drop 3).take p.length = p
    ∧ f.getD (3 + p.length) 0 = xorFold ((f.drop 1).take (2 + p.length))
    ∧ f.getD (4 + p.length) 0 = 0xEF ∧ xorFold ((f.drop 1).take (3 + p.length)) = 0x00)
  ∧ ∀ (sel sel' : Nat) (p p' f : List Byte),
    fencFn Config.params sel p = .ok f → fencFn Config.params sel' p' = .ok f → sel = sel' ∧ p = p'

/-! ### FD -/

/-- R170, R171: FPARSE reports the first check that fails, in the order short, START, LENGTH range, total size, END,
checksum, catalogue, arity; when none fails it answers the catalogue index, CMD and the parameters. What `RBUF`, `RLEN`
and the FD registers that are not named hold afterwards is the model's reading (log 14). -/
def Obligations.FparseReportsFirstFailedCheck : Prop :=
  ∀ (bs : List Byte) (s : State), fits Config.params.respMax bs = true →
    let len := (bs.getD 1 0).toNat
    let cmd := bs.getD 2 0
    let codes := Config.params.codes
    let arity := [0, 0, 0, 0, 0, 0, 0, 0, 0, 0, 0, 1, 1, 2].getD (codes.idxOf cmd) 0
    let params := (bs.drop 3).take (len - 3)
    let sum := xorFold ((bs.drop 1).take (len - 1))
    let checks : List (Bool × Err) :=
      [(decide (bs.length < 5), ⟨.framing, .short⟩), (bs.getD 0 0 != 0x7E, ⟨.framing, .start⟩),
       (decide (len < 3 ∨ 5 < len), ⟨.framing, .length⟩), (decide (bs.length ≠ len + 2), ⟨.framing, .size⟩),
       (bs.getD (len + 1) 0 != 0xEF, ⟨.framing, .ending⟩),
       (sum != bs.getD len 0, ⟨.checksum, .sums sum (bs.getD len 0)⟩),
       (!codes.contains cmd, ⟨.unknownOpcode, .cmd cmd⟩),
       (decide (arity ≠ len - 3), ⟨.paramCount, .selCount (codes.idxOf cmd) (len - 3)⟩)]
    let loaded := { s.fd with rbuf := bs ++ s.fd.rbuf.drop bs.length, rlen := bs.length }
    match checks.find? Prod.fst with
    | some (_, e) => exec (.fparse bs) s
        = .next { s with fd := { loaded with kind := .none, err := e.code, out := .err e } }
    | none => exec (.fparse bs) s
        = .next { s with fd :=
            { loaded with
              kind := .frame, sel := codes.idxOf cmd, cmd := cmd, np := len - 3
              par := params ++ s.fd.par.drop (len - 3), err := .noError
              out := .parsed (codes.idxOf cmd) cmd params } }

/-- R172: FPARSE and FENC are inverses of each other. -/
def Obligations.FparseInvertsFenc : Prop :=
  (∀ (sel : Nat) (p : List Byte), sel ≤ 13 → p.length = [0, 0, 0, 0, 0, 0, 0, 0, 0, 0, 0, 1, 1, 2].getD sel 0 →
    ∃ f, fencFn Config.params sel p = .ok f
      ∧ fparseFn Config.params f = .ok (sel, Config.params.codes.getD sel 0, p))
  ∧ ∀ (bs : List Byte) (i : Nat) (cmd : Byte) (p : List Byte),
    fparseFn Config.params bs = .ok (i, cmd, p) → fencFn Config.params i p = .ok bs

/-- R174, R176, R177, R178: FDEC of a reply that fits `RBUF`. What `RBUF`, `RLEN` and the FD registers that are not named
hold afterwards is the model's reading (log 14). -/
def Obligations.FdecClassifiesReply : Prop :=
  ∀ (r : List Byte) (s : State), fits Config.params.respMax r = true →
    let t := stripBytes Config.params.stripSet r
    let a := Config.params.ackPrefix
    let loaded := { s.fd with rbuf := r ++ s.fd.rbuf.drop r.length, rlen := r.length }
    (r = [] → exec (.fdec r) s = .next { s with fd :=
        { loaded with kind := .none, err := .transportTimeout, out := .err ⟨.transportTimeout, .none⟩ } })
    ∧ (∀ rest, r ≠ [] → t = a ++ rest → exec (.fdec r) s = .next { s with fd :=
        { loaded with kind := .ack, rest := rest, err := .noError, out := .reply (.ack rest) } })
    ∧ (t ≠ [] → (∀ c ∈ t, ishex c = true) → ∃ v, v = Nat.ofDigits 16 (t.reverse.map hexval)
      ∧ exec (.fdec r) s = .next { s with fd :=
        { loaded with kind := .hex, val := v, err := .noError, out := .reply (.hex v) } })
    ∧ (r ≠ [] → (¬ ∃ rest, t = a ++ rest) → (t = [] ∨ ∃ c ∈ t, ishex c = false) →
      exec (.fdec r) s = .next { s with fd :=
        { loaded with kind := .none, err := .framing, out := .err ⟨.framing, .raw r⟩ } })

/-- R175: strip removes exactly the leading and the trailing bytes of the strip set. R179, R180: no text is of both reply
shapes, and FDEC gives every input exactly one of ACK, HEX, `TransportTimeout`, `FramingError`. -/
def Obligations.ReplyShapes : Prop :=
  (∀ (set r : List Byte), ∃ front back : List Byte,
    r = front ++ stripBytes set r ++ back
    ∧ (∀ b ∈ front ++ back, b ∈ set)
    ∧ (∀ b, (stripBytes set r).head? = some b → b ∉ set)
    ∧ (∀ b, (stripBytes set r).getLast? = some b → b ∉ set)
    ∧ (set = [] → stripBytes set r = r))
  ∧ (∀ rest : List Byte, ¬ ∀ c ∈ Config.params.ackPrefix ++ rest, ishex c = true)
  ∧ ∀ r : List Byte, (∃ rest, fdecFn Config.params r = .ok (.ack rest))
    ∨ (∃ v, fdecFn Config.params r = .ok (.hex v))
    ∨ (fdecFn Config.params r = .error ⟨.transportTimeout, .none⟩ ∧ r = [])
    ∨ (fdecFn Config.params r = .error ⟨.framing, .raw r⟩ ∧ r ≠ [])

/-! ### HE and HD -/

/-- R192: HEXLIFY's text spells the bytes, in the case `HEX_CASE` selects; HE's result registers are not written
(log 12). -/
def Obligations.HexlifySpellsBytes : Prop :=
  ∀ (bs : List Byte) (s : State), ∃ x : List Byte,
    exec (.hexlify bs) s = .next { s with he := { s.he with err := .noError, out := .text x } }
    ∧ x = bs.flatMap (fun b => [hexdig Config.params.hexCase (b.toNat / 16), hexdig Config.params.hexCase (b.toNat % 16)])
    ∧ Spells x bs

/-- R193, R195: UNHEX of a text that fits `TBUF`: odd length, then a bad digit, are `FramingError`; any other text gives
the bytes it spells. On an error `HD_VERDICT` is 3 (R299); that a success leaves it (log 12), and what `TBUF`, `TLEN`
(log 14) and the scratch buffer (log 13) hold afterwards, is the model's reading. -/
def Obligations.UnhexReadsPairs : Prop :=
  ∀ (x : List Byte) (s : State), fits Config.params.txtMax x = true →
    let loaded := { s.hd with tbuf := x ++ s.hd.tbuf.drop x.length, tlen := x.length }
    (x.length % 2 = 1 → exec (.unhex x) s = .next { s with hd :=
        { loaded with verdict := .error, err := .framing, out := .err ⟨.framing, .odd⟩ } })
    ∧ (x.length % 2 = 0 → (∃ c ∈ x, ishex c = false) → exec (.unhex x) s = .next { s with hd :=
        { loaded with verdict := .error, err := .framing, out := .err ⟨.framing, .digit⟩ } })
    ∧ (∀ d, Spells x d → exec (.unhex x) s = .next { s with hd :=
        { loaded with scratch := d ++ s.hd.scratch.drop d.length, err := .noError, out := .bytes d } })

/-- R196: UNHEX undoes HEXLIFY; HEXLIFY of UNHEX is the text with its letters in the emitted case. -/
def Obligations.HexTextRoundTrip : Prop :=
  ∀ hc : HexCase,
    (∀ bs : List Byte, unhexFn (hexText hc bs) = .ok bs)
    ∧ ∀ x d : List Byte, unhexFn x = .ok d →
      hexText hc d = x.map (fun c => hexdig hc (hexval c))
      ∧ ((∀ c ∈ x, hexdig hc (hexval c) = c) → hexText hc d = x)

/-- R200, R201: HENC carries every 32-bit pattern unchanged, big-endian, with the sum of R99. R203: the reply looped back into HD
passes its checksum test and is not the request. -/
def Obligations.HencBuildsReply : Prop :=
  ∀ (w : Word32) (s : State), ∃ c : Byte,
    let h : List Byte :=
      [0x01, 0x01, 0x08, w.extractLsb' 24 8, w.extractLsb' 16 8, w.extractLsb' 8 8, w.extractLsb' 0 8, c]
    let x := hexText Config.params.hexCase h
    exec (.henc w) s = .next { s with he := ⟨h ++ s.he.hbuf.drop 8, x ++ s.he.htxt.drop 16, true, .noError, .hexReply h x⟩ }
    ∧ c.toNat = (0x0A + w.toNat / 2 ^ 24 + w.toNat / 2 ^ 16 % 256 + w.toNat / 2 ^ 8 % 256 + w.toNat % 256) % 256
    ∧ Spells x h ∧ hdecFn x = .ok .unrecognised

/-- R205, R206, R207, R209: HDEC of a text that fits `TBUF`. That `TBUF` and `TLEN` hold the text also after an error
(log 14), and that the scratch buffer is kept then (log 13), is the model's reading; what a success leaves in the scratch
buffer is not said. -/
def Obligations.HdecChecksThenRecognises : Prop :=
  ∀ (x : List Byte) (s : State), fits Config.params.txtMax x = true →
    let loaded := { s.hd with tbuf := x ++ s.hd.tbuf.drop x.length, tlen := x.length }
    let raises := fun e : Err =>
      exec (.hdec x) s = .next { s with hd := { loaded with verdict := .error, err := e.code, out := .err e } }
    let answers := fun (r : HdVerdict) (v : Verdict) => ∃ sc, exec (.hdec x) s
      = .next { s with hd := { loaded with scratch := sc, verdict := r, err := .noError, out := .verdict v } }
    (x.length % 2 = 1 → raises ⟨.framing, .odd⟩)
    ∧ (x.length % 2 = 0 → (∃ c ∈ x, ishex c = false) → raises ⟨.framing, .digit⟩)
    ∧ (x = [] → raises ⟨.framing, .empty⟩)
    ∧ ∀ (d : List Byte) (b : Byte), Spells x (d ++ [b]) →
      ((d.map BitVec.toNat).sum % 256 ≠ b.toNat → raises ⟨.checksum, .sums (addFold d) b⟩)
      ∧ (d ++ [b] = [0x01, 0x01, 0x01, 0x03] → answers .readWeight .readWeight)
      ∧ ((d.map BitVec.toNat).sum % 256 = b.toNat → d ++ [b] ≠ [0x01, 0x01, 0x01, 0x03] →
        answers .unrecognised .unrecognised)

/-! ### What the pure operations leave alone -/

/-- R20: an operation of XG, SG, FE, FD, HE or HD writes its own unit only. -/
def Obligations.UnitsArePrivate : Prop :=
  ∀ (i : Instr) (u : PureUnit) (s t : State), pureUnit i = some u → exec i s = .next t → OnlyUnit u s t

/-- R72: operations on different units commute. -/
def Obligations.DifferentUnitsCommute : Prop :=
  ∀ (i j : Instr) (u v : PureUnit) (s a b : State), pureUnit i = some u → pureUnit j = some v → u ≠ v →
    exec i s = .next a → exec j s = .next b → ∃ t, exec j a = .next t ∧ exec i b = .next t

/-- R68: repeating an operation of XG, SG, FE, FD, HE or HD with the same operands, whether it succeeded or raised, leaves
the same state. -/
def Obligations.PureOperationsIdempotent : Prop :=
  ∀ (i : Instr) (u : PureUnit) (s t : State), pureUnit i = some u → exec i s = .next t → exec i t = .next t

/-! ### MA: the steps -/

/-- R223: the post step, whatever else the requester's context is doing (R328). The requester's slot is filled, its result is
no longer valid, nothing else changes. -/
def Obligations.XferPostsRequest : Prop :=
  ∀ (i : Nat) (frame : List Byte) (tmo : Nat) (s : State),
    i < Config.params.nReq → (s.reqOf i).pending = false →
    (∀ m, Config.params.txfMax = some m → frame.length ≤ m) → tmo < 2 ^ Config.params.tickW →
    ∃ t, exec (.xfer i frame tmo) s = .next t
      ∧ t = { s with ma := { s.ma with req := t.ma.req, res := t.ma.res } }
      ∧ t.reqOf i = ⟨true, frame, tmo⟩ ∧ t.resOf i = { s.resOf i with valid := false }
      ∧ ∀ j, j ≠ i → t.reqOf j = s.reqOf j ∧ t.resOf j = s.resOf j

/-- R223, R224 with RF2: a blocked requester takes no step: a post of it is refused, whatever it presents waits, its reads
and its sequence wait. A context in a sequence begins no other (R260, log 16). R221: an operation is taken only at its
requester's own port. R82: an operand longer than its buffer is refused at the port. R273: while a task has the processor no
other task's sequence takes a step (log 44). -/
def Obligations.PortsRefuse : Prop :=
  ∀ (i m tmo : Nat) (x p : List Byte) (op : BitVec 4) (n : BitVec 16) (r : PortReg) (k : HostTask) (s : State),
    let begins := [Instr.getstate i tmo, .randomplay i tmo n, .cmd i op p tmo]
    ((s.reqOf i).pending = true →
      (Config.params.hasPort i = true → ∀ o ∈ .xfer i x tmo :: begins, exec o s = .refused .requesterBusy)
      ∧ runEvent (.op (some i)) s = .next s ∧ runEvent (.portRead (some i) r) s = .next s
      ∧ runEvent (.hostStep i) s = .next s)
    ∧ (s.taskOf i ≠ .idle → ∀ o ∈ begins,
      (Config.params.hasPort i = true → exec o s = .refused .requesterBusy)
      ∧ ∀ rest, decode s.cmds = .ok (o, rest) → runEvent (.op (some i)) s = .next s)
    ∧ (∀ o ∈ .xfer i x tmo :: begins,
      (Config.params.hasPort i = false → exec o s = .refused .noSuchRequester)
      ∧ ∀ j rest, j ≠ i → (s.reqOf j).pending = false → decode s.cmds = .ok (o, rest) →
        runEvent (.op (some j)) s = .refused .noSuchRequester)
    ∧ (m < x.length →
      (Config.params.respMax = some m →
        exec (.fparse x) s = .refused .operandTooLong ∧ exec (.fdec x) s = .refused .operandTooLong)
      ∧ (Config.params.txtMax = some m →
        exec (.unhex x) s = .refused .operandTooLong ∧ exec (.hdec x) s = .refused .operandTooLong)
      ∧ (Config.params.txfMax = some m → i < Config.params.nReq → (s.reqOf i).pending = false →
        exec (.xfer i x tmo) s = .refused .operandTooLong))
    ∧ (s.processor = some k →
      (i ≠ Config.params.trigReq → k ≠ .requester i → runEvent (.hostStep i) s = .next s)
      ∧ (k ≠ .weightReply → runEvent .serve s = .next s))

/-- R225, R226, R227: the grant step, for any pending requester while the lock is free; none while it is held. -/
def Obligations.GrantTakesFreeLock : Prop :=
  ∀ (i : Nat) (s : State),
    (s.ma.lock = false → (s.reqOf i).pending = true →
      runEvent (.grant i) s = .next { s with ma :=
        { s.ma with
          lock := true, owner := i, phase := .drain, tmo := (s.reqOf i).tmo
          txf := (s.reqOf i).frame ++ s.ma.txf.drop (s.reqOf i).frame.length
          txflen := (s.reqOf i).frame.length } })
    ∧ (s.ma.lock = true ∨ (s.reqOf i).pending = false → runEvent (.grant i) s = .next s)

/-- R228: the drain step. R230: the flush step waits for the line to be idle and opens the response window. -/
def Obligations.DrainAndFlushSteps : Prop :=
  ∀ s : State,
    (s.ma.phase = .drain → runEvent .ma s = .next { s with
      line := { s.line with rxfifo := [] }, ma := { s.ma with txidx := 0, phase := .write } })
    ∧ (s.ma.phase = .flush → s.line.txq = [] → runEvent .ma s = .next { s with ma :=
      { s.ma with t0 := s.now, resplen := 0, got := false, ovf := false, phase := .recv } })
    ∧ (s.ma.phase = .flush → s.line.txq ≠ [] → runEvent .ma s = .next s)

/-- R229: the push step, its wait, and the end of write. -/
def Obligations.WritePushesInOrder : Prop :=
  ∀ s : State, s.ma.phase = .write → Inv Config.params s →
    (s.ma.txidx < s.ma.txflen → s.line.txReady = true →
      runEvent .ma s = .next { s with
        line := { s.line with txq := s.line.txq ++ [s.ma.txf.getD s.ma.txidx 0] }
        ma := { s.ma with txidx := s.ma.txidx + 1 } })
    ∧ (s.ma.txidx < s.ma.txflen → s.line.txReady = false → runEvent .ma s = .next s)
    ∧ (s.ma.txidx = s.ma.txflen → runEvent .ma s = .next { s with ma := { s.ma with phase := .flush } })

/-- R231, R232, R234: the receive step takes the first of its four cases that applies. -/
def Obligations.ReceiveTakesFirstCase : Prop :=
  ∀ s : State, s.ma.phase = .recv → s.ma.t0 < 2 ^ Config.params.tickW → s.ma.tlast < 2 ^ Config.params.tickW →
    let since := fun t => (s.now + 2 ^ Config.params.tickW - t) % 2 ^ Config.params.tickW
    let stopped := s.ma.got = true ∧ ∃ g, Config.params.idleGap = some g ∧ g ≤ since s.ma.tlast
    (s.ma.tmo ≤ since s.ma.t0 → runEvent .ma s = .next (finishStep s))
    ∧ (∀ b rest, since s.ma.t0 < s.ma.tmo → s.line.rxfifo = b :: rest →
      ((∀ m, Config.params.respMax = some m → s.ma.resplen < m) →
        runEvent .ma s = .next { s with
          line := { s.line with rxfifo := rest }
          ma := { s.ma with
            resp := s.ma.resp.take s.ma.resplen ++ [b] ++ s.ma.resp.drop (s.ma.resplen + 1)
            resplen := s.ma.resplen + 1, got := true, tlast := s.now } })
      ∧ (∀ m, Config.params.respMax = some m → m ≤ s.ma.resplen →
        runEvent .ma s = .next { s with
          line := { s.line with rxfifo := rest }
          ma := { s.ma with ovf := true, got := true, tlast := s.now } }))
    ∧ (since s.ma.t0 < s.ma.tmo → s.line.rxfifo = [] → stopped → runEvent .ma s = .next (finishStep s))
    ∧ (since s.ma.t0 < s.ma.tmo → s.line.rxfifo = [] → ¬ stopped → runEvent .ma s = .next s)

/-- R235: the finish, at the deadline or once data has stopped, delivers what was accumulated and frees the lock in one
step, and leaves every other slot alone. `TXIDX`, which means nothing while the lock is free (R36), is left open (log 40). -/
def Obligations.FinishDeliversAndReleases : Prop :=
  ∀ s : State, s.ma.phase = .recv →
    (deadlineReached Config.params s = true ∨ (s.line.rxfifo = [] ∧ dataStopped Config.params s = true)) →
    ∃ t, runEvent .ma s = .next t
      ∧ t = { s with ma :=
        { s.ma with req := t.ma.req, res := t.ma.res, txidx := t.ma.txidx, lock := false, phase := .idle } }
      ∧ t.resOf s.ma.owner = ⟨true, .noError, s.ma.ovf, s.ma.resp.take s.ma.resplen⟩
      ∧ t.reqOf s.ma.owner = { s.reqOf s.ma.owner with pending := false }
      ∧ ∀ j, j ≠ s.ma.owner → t.reqOf j = s.reqOf j ∧ t.resOf j = s.resOf j

/-- R236: the abort, enabled in every phase but IDLE while `io_fault` is asserted. What is left of the transmit path is
a prefix of it (X6; log 26); `TXIDX`, which means nothing while the lock is free (R36), is left open (log 40). -/
def Obligations.AbortReleasesLock : Prop :=
  ∀ s : State,
    (s.ma.phase ≠ .idle → s.line.ioFault = true → ∃ t, runEvent .abort s = .next t
      ∧ t = { s with
          ma := { s.ma with req := t.ma.req, res := t.ma.res, txidx := t.ma.txidx, lock := false, phase := .idle }
          line := { s.line with txq := t.line.txq }, freeCtr := t.freeCtr }
      ∧ t.line.txq <+: s.line.txq
      ∧ t.resOf s.ma.owner = ⟨true, .transportFault, false, []⟩
      ∧ t.reqOf s.ma.owner = { s.reqOf s.ma.owner with pending := false }
      ∧ ∀ j, j ≠ s.ma.owner → t.reqOf j = s.reqOf j ∧ t.resOf j = s.resOf j)
    ∧ (s.ma.phase = .idle ∨ s.line.ioFault = false → runEvent .abort s = .next s)

/-! ### MA: laws -/

/-- R240: with `tmo = 0` the first receive step finishes with an empty result, whatever is in `RXFIFO`; the frame has
been sent in full. -/
def Obligations.ZeroTimeoutFinishesEmpty : Prop :=
  ∀ s : State, Inv Config.params s → SentInOrder s → s.ma.phase = .flush → s.line.txq = [] → s.ma.tmo = 0 →
    ∃ t, runEvents [.ma, .ma] s = .next t ∧ t.ma.phase = .idle ∧ t.ma.lock = false ∧ t.line = s.line
      ∧ t.resOf s.ma.owner = ⟨true, .noError, false, []⟩ ∧ s.ma.txf.take s.ma.txflen <:+ t.line.wire

/-- R30: `LOCK` is set only by the grant step and cleared only by the finish and abort steps (or a reset of the device);
no operation and no other agent touches it. -/
def Obligations.LockSetOnlyByGrant : Prop :=
  ∀ (e : Ev) (s t : State), runEvent e s = .next t →
    (s.ma.lock = false → t.ma.lock = true → ∃ i, e = .grant i ∧ (s.reqOf i).pending = true)
    ∧ (s.ma.lock = true → t.ma.lock = false →
      (e = .ma ∧ s.ma.phase = .recv) ∨ (e = .abort ∧ s.line.ioFault = true)
      ∨ resetsDevice Config.params e s = true)

/-- R242: the phases change only as the table says (or by a reset of the device). -/
def Obligations.PhaseFollowsTable : Prop :=
  ∀ (e : Ev) (s t : State), Inv Config.params s → runEvent e s = .next t → t.ma.phase ≠ s.ma.phase →
    resetsDevice Config.params e s = true
    ∨ (∃ i, e = .grant i ∧ s.ma.phase = .idle ∧ s.ma.lock = false ∧ (s.reqOf i).pending = true ∧ t.ma.phase = .drain)
    ∨ (e = .ma ∧ s.ma.phase = .drain ∧ t.ma.phase = .write)
    ∨ (e = .ma ∧ s.ma.phase = .write ∧ s.ma.txidx = s.ma.txflen ∧ t.ma.phase = .flush)
    ∨ (e = .ma ∧ s.ma.phase = .flush ∧ s.line.txq = [] ∧ t.ma.phase = .recv)
    ∨ (e = .ma ∧ s.ma.phase = .recv ∧ (deadlineReached Config.params s = true
      ∨ (s.line.rxfifo = [] ∧ dataStopped Config.params s = true)) ∧ t.ma.phase = .idle)
    ∨ (e = .abort ∧ s.line.ioFault = true ∧ t.ma.phase = .idle)

/-- R238: a pending request is removed only by the end of its own transaction (or a reset of the device), and its frame
and timeout stay as posted. -/
def Obligations.PendingRequestNotCancelled : Prop :=
  ∀ (e : Ev) (s t : State) (i : Nat), Inv Config.params s → runEvent e s = .next t → (s.reqOf i).pending = true →
    t.reqOf i = s.reqOf i
    ∨ (i = s.ma.owner ∧ s.ma.lock = true ∧ t.ma.lock = false ∧ (t.resOf i).valid = true
      ∧ t.reqOf i = { s.reqOf i with pending := false })
    ∨ resetsDevice Config.params e s = true

/-- R241, the clause on line accesses: while the lock is free nothing is taken from `RXFIFO` and nothing is added to or
dropped from the transmit path. -/
def Obligations.LineAccessedOnlyUnderLock : Prop :=
  ∀ (e : Ev) (s t : State), Inv Config.params s → s.ma.lock = false → runEvent e s = .next t →
    resetsDevice Config.params e s = false →
    s.line.rxfifo <+: t.line.rxfifo ∧ t.line.wire ++ t.line.txq = s.line.wire ++ s.line.txq

/-- R247: when a transaction has ended, by finish or by abort, another requester's request is granted. -/
def Obligations.AnotherRequesterGrantedAfterwards : Prop :=
  ∀ (e : Ev) (s t : State) (b : Nat), Inv Config.params s → s.ma.lock = true → e = .ma ∨ e = .abort →
    runEvent e s = .next t → t.ma.lock = false → b ≠ s.ma.owner → (s.reqOf b).pending = true →
    ∃ u, runEvent (.grant b) t = .next u ∧ u.ma.lock = true ∧ u.ma.owner = b ∧ u.ma.phase = .drain
      ∧ u.ma.txf.take u.ma.txflen = (s.reqOf b).frame ∧ u.ma.tmo = (s.reqOf b).tmo

/-- R245, the receive phase in ticks: from any state of it, at most `TMO` ticks and one receive step end it (the watchdog
of the host not being armed). -/
def Obligations.ReceiveEndsWithinTimeout : Prop :=
  ∀ s : State, Inv Config.params s → s.ma.phase = .recv → s.wd.armed = false →
    ∃ n ≤ s.ma.tmo, ∃ t, runEvents (List.replicate n .tick ++ [.ma]) s = .next t
      ∧ t.ma.lock = false ∧ t.ma.phase = .idle ∧ (t.resOf s.ma.owner).valid = true

/-- R74: in every phase from the write on, what has been pushed of the frame is the last that was handed to the line, in
order; every step keeps this. -/
def Obligations.StepKeepsSentInOrder : Prop :=
  ∀ s t : State, SentInOrder s → step s = .next t → SentInOrder t

/-- The invariant of R241 (with `TXIDX` 0 while the lock is free, log 40), of the buffers (R39), of the slots (R34, R35), of `HE_ERR` (R28),
of the host contexts (R223, R267) and of the scheduler (R273, log 44) is kept by every step, whatever agent moves. -/
def Obligations.StepKeepsInvariant : Prop :=
  ∀ s t : State, Inv Config.params s → step s = .next t → Inv Config.params t

/-- The invariant holds at reset, with any operations and any agenda loaded. It rests on values the model chose for reset:
the buffers and slots (log 7), idle host contexts (log 16), the trigger interrupt enabled (log 20), no task started
(log 21, log 44). -/
def Obligations.ResetHasInvariant : Prop :=
  ∀ (cmds : List Byte) (agenda : List Ev),
    Inv Config.params { State.reset with cmds := cmds, agenda := agenda }
    ∧ SentInOrder { State.reset with cmds := cmds, agenda := agenda }

/-- The only faults are a context's reads at a result port (R81), and the only refusals are of these, of operations and of
WeightReplyService's HDEC of a text that is too long (R82): every other agent's step completes. -/
def Obligations.AgentsNeverStop : Prop :=
  ∀ (e : Ev) (s : State), Inv Config.params s → (∀ who, e ≠ .op who) → (∀ who r, e ≠ .portRead who r) →
    (∀ x, e = .serve → s.host.service = .text x → fits Config.params.txtMax x = true) →
    ∃ t, runEvent e s = .next t

/-! ### The environment and the reset -/

/-- R41, R42, R43, R243: the steps of the environment. A tick advances `NOW` modulo `2^TICK_W` and touches nothing else
but the watchdog, whether or not that is armed, unless it resets the device. -/
def Obligations.EnvironmentSteps : Prop :=
  ∀ (b : Byte) (f : Bool) (s : State),
    runEvent (.peer b) s = .next { s with line := { s.line with rxfifo := s.line.rxfifo ++ [b] } }
    ∧ (∀ c rest, s.line.txq = c :: rest → runEvent .serialise s
      = .next { s with line := { s.line with txq := rest, wire := s.line.wire ++ [c] } })
    ∧ runEvent (.ioFault f) s = .next { s with line := { s.line with ioFault := f } }
    ∧ runEvent (.txReady f) s = .next { s with line := { s.line with txReady := f } }
    ∧ (s.wd.armed = false →
      runEvent .tick s = .next { s with now := (s.now + 1) % 2 ^ Config.params.tickW })
    ∧ (resetsDevice Config.params .tick s = false → ∃ w,
      runEvent .tick s = .next { s with now := (s.now + 1) % 2 ^ Config.params.tickW, wd := w })

/-- R47: the reset values the spec gives. -/
def Obligations.ResetValues : Prop :=
  let s := State.reset
  s.xg.acc = 0x00 ∧ s.sg.acc = 0x00
  ∧ s.fe.flen = 0 ∧ s.fd.rlen = 0 ∧ s.hd.tlen = 0 ∧ s.ma.resplen = 0 ∧ s.ma.txidx = 0 ∧ s.ma.txflen = 0
  ∧ s.he.hvalid = false ∧ s.fd.kind = .none ∧ s.hd.verdict = .none
  ∧ s.fe.err = .noError ∧ s.fd.err = .noError ∧ s.he.err = .noError ∧ s.hd.err = .noError
  ∧ s.ma.lock = false ∧ s.ma.phase = .idle ∧ s.ma.got = false ∧ s.ma.ovf = false
  ∧ (∀ i, (s.reqOf i).pending = false ∧ (s.resOf i).valid = false)
  ∧ s.line.rxfifo = [] ∧ s.line.txq = []

/-- R321, R322: a reset of the device, whatever is going on, frees the lock, empties the slots and the line, delivers no
result, and lets any prefix of the pushed bytes have been sent (log 25). -/
def Obligations.DeviceResetDropsTransaction : Prop :=
  ∀ s : State, ∃ t, runEvent .reset s = .next t
    ∧ t.xg = State.reset.xg ∧ t.sg = State.reset.sg ∧ t.fe = State.reset.fe ∧ t.fd = State.reset.fd
    ∧ t.he = State.reset.he ∧ t.hd = State.reset.hd ∧ t.ma = State.reset.ma
    ∧ t.line.rxfifo = [] ∧ t.line.txq = []
    ∧ (∃ sent, sent <+: s.line.txq ∧ t.line.wire = s.line.wire ++ sent)
    ∧ t.now < 2 ^ Config.params.tickW
    ∧ (∀ i, (t.reqOf i).pending = false ∧ (t.resOf i).valid = false)

/-- R275: WDFEED restarts the watchdog's count and writes no state of the block; during an interrupt freeze the feed does
not run (R276). During a freeze an armed watchdog whose window has passed resets the device, and one whose window has not
passed does not. The count in ticks is the model's choice (log 23), as is the freeze as an input (log 24). -/
def Obligations.WatchdogFeedAndExpiry : Prop :=
  ∀ s : State, (s.wd.irqFrozen = false → exec .wdfeed s = .next { s with wd := { s.wd with count := 0 } })
    ∧ (s.wd.irqFrozen = true → exec .wdfeed s = .next s)
    ∧ (s.wd.armed = true → s.wd.irqFrozen = true → ∃ t, runEvent .tick s = .next t
      ∧ (Config.params.wdWindow ≤ s.wd.count + 1 → t.ma = State.reset.ma ∧ t.wd.armed = false)
      ∧ (s.wd.count + 1 < Config.params.wdWindow → t.ma = s.ma ∧ t.wd.count = s.wd.count + 1
        ∧ t.now = (s.now + 1) % 2 ^ Config.params.tickW))

/-- R275, R276: while interrupts are not frozen, the feed comes in time whatever the tasks and the block do: no tick of
an armed watchdog resets the device (log 23, log 24). -/
def Obligations.FeedKeepsWatchdogFromFiring : Prop :=
  ∀ (e : Ev) (s t : State), FeedKeepsUp Config.params s.wd → runEvent e s = .next t → (∀ b, e ≠ .irqFreeze b) →
    FeedKeepsUp Config.params t.wd
    ∧ (e = .tick → s.wd.armed = true → s.wd.irqFrozen = false → resetsDevice Config.params e s = false)

/-! ### The host sequences -/

/-- R120, R262, R263: CMD, GETSTATE and RANDOMPLAY of a requester context that is free begin by building their frame in FE
when the context may run; else the context is ready and begins so with its next step (R273). MA and the line are untouched;
the frame is handed to XFER by the step after (log 16), up to which a task keeps the processor (R273, log 44). A CMD whose
FENC fails ends there (its rows 14 and 15: log 43). -/
def Obligations.SequencesBeginWithFenc : Prop :=
  ∀ (i tmo : Nat) (n : BitVec 16) (op : BitVec 4) (p : List Byte) (s : State),
    i < Config.params.nReq → (s.reqOf i).pending = false →
    let query := fun c : Byte => [0x7E, 0x03, c, 0x03 ^^^ c, 0xEF]
    let othersKeep := fun t : State => ∀ j, j ≠ i → t.taskOf j = s.taskOf j ∧ t.resultOf j = s.resultOf j
    let begun := fun (f : List Byte) (pc : HostPc) (t : State) =>
      t.taskOf i = pc ∧ t.resultOf i = .none ∧ othersKeep t
      ∧ (i ≠ Config.params.trigReq → t.host.running = some (.requester i))
      ∧ (i = Config.params.trigReq → t.host.running = s.host.running)
      ∧ t = { s with
          fe := ⟨f ++ s.fe.fbuf.drop f.length, f.length, .noError, .frame f⟩
          host := { s.host with task := t.host.task, result := t.host.result, running := t.host.running } }
    let begins := fun (o : Instr) (call : HostCall) (first : State → Prop) =>
      (s.taskOf i = .idle → s.mayRun Config.params i = true → ∃ t, exec o s = .next t ∧ first t)
      ∧ (s.taskOf i = .idle → s.mayRun Config.params i = false → ∃ t, exec o s = .next t
        ∧ t.taskOf i = .ready call ∧ t.resultOf i = .none ∧ othersKeep t
        ∧ t = { s with host := { s.host with task := t.host.task, result := t.host.result } })
      ∧ (s.taskOf i = .ready call → s.mayRun Config.params i = true → ∃ t, runEvent (.hostStep i) s = .next t ∧ first t)
    begins (.getstate i tmo) (.getstate tmo)
      (begun (query Config.params.codeQstate) (.gsPost false (query Config.params.codeQstate) tmo))
    ∧ begins (.randomplay i tmo n) (.randomplay tmo n.toNat)
      (begun (query Config.params.codeQqty) (.rqPost false (query Config.params.codeQqty) tmo n.toNat))
    ∧ (∀ f, fencFn Config.params op.toNat p = .ok f →
      begins (.cmd i op p tmo) (.cmd op p tmo) (begun f (.cmdPost f tmo)))
    ∧ (∀ e, fencFn Config.params op.toNat p = .error e → begins (.cmd i op p tmo) (.cmd op p tmo) fun t =>
      t.taskOf i = .idle ∧ t.resultOf i = .err e ∧ t.fe.err = e.code ∧ t.fe.flen = 0 ∧ t.ma = s.ma
      ∧ t.line = s.line ∧ othersKeep t)

/-- R260: the next step of a sequence whose frame is built, of a context that may run and has no request pending, is the post
step of R223; the context then waits, and no task has the processor, if it was a task (R273, log 44). -/
def Obligations.SequencesPostTheirFrame : Prop :=
  ∀ (i tmo n : Nat) (trig : Bool) (f : List Byte) (s : State), Inv Config.params s →
    ∀ w ∈ [(HostPc.cmdPost f tmo, HostPc.cmdWait), (.gsPost trig f tmo, .gsWait trig tmo),
        (.rqPost trig f tmo n, .rqWait trig tmo n), (.rsPost trig f tmo n, .rsWait trig n)],
      s.taskOf i = w.1 → tmo < 2 ^ Config.params.tickW → s.mayRun Config.params i = true → (s.reqOf i).pending = false →
      ∃ t, (i ≠ Config.params.trigReq → t.processor = none)
        ∧ runEvent (.hostStep i) s = .next t ∧ t.taskOf i = w.2 ∧ t.reqOf i = ⟨true, f, tmo⟩
        ∧ (t.resOf i).valid = false ∧ t.fe = s.fe ∧ t.fd = s.fd ∧ t.line = s.line ∧ t.ma.phase = s.ma.phase

/-- R120: CMD ends with FDEC of what XFER returned. R261, R262: how GETSTATE ends. The context must be one that may run
(R273, log 44). -/
def Obligations.CmdAndGetstateEnd : Prop :=
  ∀ (i tmo : Nat) (s : State), (s.resOf i).valid = true → (s.reqOf i).pending = false →
    s.mayRun Config.params i = true →
    let y := fdecFn Config.params (s.resOf i).bytes
    let ends := fun r : HostResult =>
      ∃ t, runEvent (.hostStep i) s = .next t ∧ t.taskOf i = .idle ∧ t.resultOf i = r ∧ t.ma = s.ma ∧ t.line = s.line
    (s.taskOf i = .cmdWait →
      ((s.resOf i).err = .transportFault → ends (.err ⟨.transportFault, .none⟩))
      ∧ ((s.resOf i).err ≠ .transportFault → fits Config.params.respMax (s.resOf i).bytes = true →
        (∀ e, y = .error e → ends (.err e)) ∧ ∀ r, y = .ok r → ends (.reply r)))
    ∧ (s.taskOf i = .gsWait false tmo →
      ((s.resOf i).err = .transportFault → ends (.err ⟨.transportFault, .none⟩))
      ∧ ((s.resOf i).err ≠ .transportFault → fits Config.params.respMax (s.resOf i).bytes = true →
        (∀ e, y = .error e → ends (.err e))
        ∧ (∀ rest, y = .ok (.ack rest) → ends (.err ⟨.protocol, .shape⟩))
        ∧ (y = .ok (.hex 0) → ends (.playState .custom))
        ∧ (y = .ok (.hex 1) → ends (.playState .playing))
        ∧ (y = .ok (.hex 2) → ends (.playState .paused))
        ∧ (y = .ok (.hex 3) → ends (.playState .fastForward))
        ∧ (y = .ok (.hex 4) → ends (.playState .fastReverse))
        ∧ ∀ v, 4 < v → y = .ok (.hex v) → ends (.err ⟨.protocol, .playState v⟩)))

/-- R263 to R266: RANDOMPLAY's first half, on its own or inside TRIGGER. A bad quantity reply ends it, and no second frame
is sent; a quantity of four hex digits, most significant first, leads to a draw in `1..q`, which is the operand `n` when
that is in range (log 18). The context must be one that may run (R273, log 44). -/
def Obligations.QuantityReplyDecides : Prop :=
  ∀ (trig : Bool) (i tmo n : Nat) (s : State), s.taskOf i = .rqWait trig tmo n → (s.resOf i).valid = true →
    (s.reqOf i).pending = false → s.mayRun Config.params i = true →
    let y := fdecFn Config.params (s.resOf i).bytes
    let ends := fun e : Err =>
      ∃ t, runEvent (.hostStep i) s = .next t ∧ t.taskOf i = (if trig then .trigExit else .idle) ∧ t.resultOf i = .err e
        ∧ t.ma = s.ma ∧ t.line = s.line ∧ t.fe = s.fe
    ((s.resOf i).err = .transportFault → ends ⟨.transportFault, .none⟩)
    ∧ ((s.resOf i).err ≠ .transportFault → fits Config.params.respMax (s.resOf i).bytes = true →
      (∀ e, y = .error e → ends e)
      ∧ (∀ v, y = .ok (.hex v) → ends ⟨.protocol, .shape⟩)
      ∧ (∀ d, y = .ok (.ack d) → d.length ≠ 4 ∨ (∃ c ∈ d, ishex c = false) → ends ⟨.protocol, .quantityFormat⟩)
      ∧ ∀ d0 d1 d2 d3 : Byte, y = .ok (.ack [d0, d1, d2, d3]) → (∀ c ∈ [d0, d1, d2, d3], ishex c = true) →
        let q := 4096 * hexval d0 + 256 * hexval d1 + 16 * hexval d2 + hexval d3
        (q = 0 → ends ⟨.protocol, .zeroQuantity⟩)
        ∧ (1 ≤ q → ∃ t m, runEvent (.hostStep i) s = .next t ∧ t.taskOf i = .rsStart trig tmo m ∧ 1 ≤ m ∧ m ≤ q
          ∧ (1 ≤ n → n ≤ q → m = n) ∧ t.ma = s.ma ∧ t.line = s.line))

/-- R265: RANDOMPLAY's second half, on its own or inside TRIGGER, of a context that may run (R273, log 44). -/
def Obligations.TrackSelectAndSuccess : Prop :=
  ∀ (trig : Bool) (i tmo n : Nat) (s : State), (s.reqOf i).pending = false → s.mayRun Config.params i = true →
    (s.taskOf i = .rsStart trig tmo n → n < 65536 →
      ∃ (hi lo : Byte) (t : State), n = 256 * hi.toNat + lo.toNat
        ∧ runEvent (.hostStep i) s = .next t ∧ t.ma = s.ma ∧ t.line = s.line
        ∧ let f := [0x7E, 0x05, Config.params.codeSeltrk, hi, lo, 0x05 ^^^ Config.params.codeSeltrk ^^^ hi ^^^ lo, 0xEF]
          t.taskOf i = .rsPost trig f tmo n ∧ t.fe = ⟨f ++ s.fe.fbuf.drop 7, 7, .noError, .frame f⟩)
    ∧ (s.taskOf i = .rsWait trig n → (s.resOf i).valid = true →
      let y := fdecFn Config.params (s.resOf i).bytes
      let ends := fun r : HostResult =>
        ∃ t, runEvent (.hostStep i) s = .next t ∧ t.taskOf i = (if trig then .trigExit else .idle) ∧ t.resultOf i = r
          ∧ t.ma = s.ma ∧ t.line = s.line
      ((s.resOf i).err = .transportFault → ends (.err ⟨.transportFault, .none⟩))
      ∧ ((s.resOf i).err ≠ .transportFault → fits Config.params.respMax (s.resOf i).bytes = true →
        (∀ e, y = .error e → ends (.err e))
        ∧ (∀ v, y = .ok (.hex v) → ends (.err ⟨.protocol, .missingAck⟩))
        ∧ ∀ rest, y = .ok (.ack rest) → ends (.played n)))

/-- R267: TRIGGER of an enabled interrupt whose context is free disables it and begins GETSTATE; a disabled one starts no
second TRIGGER (R268); RANDOMPLAY follows only from CUSTOM or PAUSED; the exit re-enables the interrupt. During an
interrupt freeze none of this happens (R276, log 24). The handler's requester and timeout are configuration (log 17), an
edge while disabled is remembered or lost (log 19). -/
def Obligations.TriggerPolicy : Prop :=
  ∀ s : State,
    let i := Config.params.trigReq
    let f := [0x7E, 0x03, Config.params.codeQstate, 0x03 ^^^ Config.params.codeQstate, 0xEF]
    let y := fdecFn Config.params (s.resOf i).bytes
    let goes := fun (r : HostResult) (pc : HostPc) => ∃ t, runEvent (.hostStep i) s = .next t
      ∧ t.taskOf i = pc ∧ t.resultOf i = r ∧ t.ma = s.ma ∧ t.line = s.line
      ∧ t.host.trigIrqEnable = s.host.trigIrqEnable
    (∃ t, exec .trigger s = .next t ∧ t.ma = s.ma ∧ t.line = s.line
      ∧ (s.host.trigIrqEnable = true → s.ctxFree i = true → s.wd.irqFrozen = false →
        t.host.trigIrqEnable = false ∧ t.taskOf i = .gsPost true f Config.params.trigTmo
        ∧ t.fe = ⟨f ++ s.fe.fbuf.drop 5, 5, .noError, .frame f⟩)
      ∧ (s.host.trigIrqEnable = false ∨ s.wd.irqFrozen = true →
        t.host.trigIrqEnable = s.host.trigIrqEnable ∧ t.host.task = s.host.task ∧ t.fe = s.fe))
    ∧ (s.wd.irqFrozen = true → runEvent .takeIrq s = .next s ∧ runEvent (.hostStep i) s = .next s)
    ∧ (∀ tmo, s.wd.irqFrozen = false → (s.reqOf i).pending = false → s.taskOf i = .gsWait true tmo →
      (s.resOf i).valid = true →
      ((s.resOf i).err = .transportFault → goes (.err ⟨.transportFault, .none⟩) .trigExit)
      ∧ ((s.resOf i).err ≠ .transportFault → fits Config.params.respMax (s.resOf i).bytes = true →
        (∀ e, y = .error e → goes (.err e) .trigExit)
        ∧ (∀ rest, y = .ok (.ack rest) → goes (.err ⟨.protocol, .shape⟩) .trigExit)
        ∧ (y = .ok (.hex 0) → goes (.playState .custom) (.rqStart tmo))
        ∧ (y = .ok (.hex 1) → goes (.playState .playing) .trigExit)
        ∧ (y = .ok (.hex 2) → goes (.playState .paused) (.rqStart tmo))
        ∧ (y = .ok (.hex 3) → goes (.playState .fastForward) .trigExit)
        ∧ (y = .ok (.hex 4) → goes (.playState .fastReverse) .trigExit)
        ∧ ∀ v, 4 < v → y = .ok (.hex v) → goes (.err ⟨.protocol, .playState v⟩) .trigExit))
    ∧ (∀ tmo, s.wd.irqFrozen = false → (s.reqOf i).pending = false → s.taskOf i = .rqStart tmo →
      ∃ t, runEvent (.hostStep i) s = .next t ∧ t.ma = s.ma ∧ t.line = s.line
      ∧ t.host.trigIrqEnable = s.host.trigIrqEnable
      ∧ let q := [0x7E, 0x03, Config.params.codeQqty, 0x03 ^^^ Config.params.codeQqty, 0xEF]
        t.taskOf i = .rqPost true q tmo 0 ∧ t.fe = ⟨q ++ s.fe.fbuf.drop 5, 5, .noError, .frame q⟩)
    ∧ (s.wd.irqFrozen = false → (s.reqOf i).pending = false → s.taskOf i = .trigExit →
      ∃ t, runEvent (.hostStep i) s = .next t ∧ t.taskOf i = .idle
      ∧ t.host.trigIrqEnable = true ∧ t.ma = s.ma ∧ t.line = s.line ∧ t.resultOf i = s.resultOf i)

/-- R270: WSERVE starts the service task and takes its next step; a whole turn, with no other agent between its steps. Nothing
waiting: nothing is done. A burst is read; HEXLIFY and HDEC follow; the request `01 01 01 03`, and nothing else, is answered,
with the eight raw bytes of HENC of the sensor's weight, in three further steps. A burst whose text is longer than `TXT_MAX`
is refused at HDEC's port (R82). While another task has the processor the task is only started (R273, log 44). Steps and
bursts: log 21; the weight: log 22. -/
def Obligations.WserveAnswersOnlyTheRequest : Prop :=
  ∀ s : State,
    let started := { s with host := { s.host with service := .atRead } }
    let done := fun (u t : State) => t.host.service = .atRead ∧ t.host.running = none
      ∧ t = { u with
          he := t.he, hd := t.hd, freeCtr := t.freeCtr, bridge := { u.bridge with tx := t.bridge.tx }
          host := { u.host with service := t.host.service, running := t.host.running } }
    (s.serviceMayRun = false → s.host.service = .off → exec .wserve s = .next started)
    ∧ (s.serviceMayRun = true → s.host.service.waits = true →
      (s.bridge.rx = [] → exec .wserve s = .next started)
      ∧ ∀ b rest, s.bridge.rx = b :: rest → b ≠ [] → ∃ u, exec .wserve s = .next u
        ∧ u = { s with
            bridge := { s.bridge with rx := rest }
            host := { s.host with service := .burst b, running := some .weightReply } }
        ∧ let x := hexText Config.params.hexCase b
          (fits Config.params.txtMax x = true → b = [0x01, 0x01, 0x01, 0x03] → ∃ t,
            runEvents [.serve, .serve, .serve, .serve, .serve] u = .next t ∧ done u t ∧ t.he.hvalid = true
            ∧ t.bridge.tx = s.bridge.tx ++ hencBytes (Config.weightSensor s.freeCtr))
          ∧ (fits Config.params.txtMax x = true → b ≠ [0x01, 0x01, 0x01, 0x03] → ∃ t,
            runEvents [.serve, .serve] u = .next t ∧ done u t ∧ t.he.hvalid = s.he.hvalid
            ∧ t.bridge.tx = s.bridge.tx)
          ∧ ∀ m, Config.params.txtMax = some m → m < x.length →
            runEvents [.serve, .serve] u = .refused .operandTooLong)

/-! ### Buffers and result ports -/

/-- R81, R331 with X1, X2, X5, X7: a context that is not blocked (R223) reads `FBUF` within `FLEN`; `HBUF` and `HTXT` within 8
and 16 bytes, from HENC until HE's next operation (log 15); the FD registers of the kind `FD_KIND` names; any requester's
result slot until that requester's next request (log 38), where the requester has a port (R35); and every other register of a
result port at any time. Any other such read is a fault, or a refusal where there is no slot; a read changes nothing but what
was read (log 38). -/
def Obligations.PortReadsWithinValid : Prop :=
  ∀ (who : Option Nat) (a n i : Nat) (s : State), s.mayPresent who = true →
    let gives := fun (r : PortReg) (v : PortVal) =>
      runEvent (.portRead who r) s = .next { s with host := { s.host with readout := v } }
    let faults := fun (r : PortReg) (f : Fault) => runEvent (.portRead who r) s = .fault f
    (a + n ≤ s.fe.flen → gives (.fbuf a n) (.bytes ((s.fe.fbuf.drop a).take n)))
    ∧ (s.fe.flen < a + n → faults (.fbuf a n) .readBeyondValid)
    ∧ (∀ raw text, s.he.hvalid = true → s.he.out = .hexReply raw text →
      (a + n ≤ 8 → gives (.hbuf a n) (.bytes ((s.he.hbuf.drop a).take n)))
      ∧ (8 < a + n → faults (.hbuf a n) .readBeyondValid)
      ∧ (a + n ≤ 16 → gives (.htxt a n) (.bytes ((s.he.htxt.drop a).take n)))
      ∧ (16 < a + n → faults (.htxt a n) .readBeyondValid))
    ∧ (∀ r ∈ [PortReg.hbuf a n, .htxt a n],
      (s.he.hvalid = false → faults r .readBeyondValid)
      ∧ (s.he.hvalid = true → (∀ raw text, s.he.out ≠ .hexReply raw text) → faults r .staleResult))
    ∧ (∀ w ∈ ([(.fdVal, .hex, .num s.fd.val), (.fdRest, .ack, .bytes s.fd.rest),
        (.fdCmd, .frame, .num s.fd.cmd.toNat), (.fdSel, .frame, .num s.fd.sel), (.fdNp, .frame, .num s.fd.np),
        (.fdPar, .frame, .bytes (s.fd.par.take s.fd.np))] : List (PortReg × FdKind × PortVal)),
      (s.fd.kind = w.2.1 → gives w.1 w.2.2) ∧ (s.fd.kind ≠ w.2.1 → faults w.1 .registerNotValid))
    ∧ (Config.params.hasPort i = false → ∀ r ∈ [PortReg.resValid i, .resErr i, .resOvf i, .resBytes i],
      runEvent (.portRead who r) s = .refused .noSuchRequester)
    ∧ (Config.params.hasPort i = true → gives (.resValid i) (.num (s.resOf i).valid.toNat)
      ∧ ∀ w ∈ ([(.resErr i, .num (s.resOf i).err.number.toNat), (.resOvf i, .num (s.resOf i).ovf.toNat),
        (.resBytes i, .bytes (s.resOf i).bytes)] : List (PortReg × PortVal)),
      ((s.reqOf i).pending = false → gives w.1 w.2) ∧ ((s.reqOf i).pending = true → faults w.1 .staleResult))
    ∧ ∀ w ∈ ([(.flen, .num s.fe.flen), (.feErr, .num s.fe.err.number.toNat), (.fdKind, .num s.fd.kind.number.toNat),
        (.fdErr, .num s.fd.err.number.toNat), (.hvalid, .num s.he.hvalid.toNat), (.heErr, .num s.he.err.number.toNat),
        (.hdVerdict, .num s.hd.verdict.number.toNat), (.hdErr, .num s.hd.err.number.toNat)] : List (PortReg × PortVal)),
      gives w.1 w.2

/-! ### Encoding and the step -/

/-- Decoding undoes encoding, for every well-formed operation, whatever follows it in the stream. How operands follow a
tag is the model's choice (log 2, log 3). -/
def Obligations.DecodeEncodeRoundTrip : Prop :=
  ∀ (i : Instr) (rest : List Byte), i.wf = true → decode (encode i ++ rest) = .ok (i, rest)

/-- What the decoder accepts is well-formed, and it takes exactly the operation's one encoding off the stream (the model's
encoding, log 2, log 3). -/
def Obligations.DecodeIsCanonical : Prop :=
  ∀ (bs rest : List Byte) (i : Instr), decode bs = .ok (i, rest) → i.wf = true ∧ bs = encode i ++ rest

/-- Words written out from the spec: the Frames of V1 and V2 (R95, R121) and the tags of R118; that a tag followed by zero
bytes is the operation with zero operands is the model's choice (log 2). -/
def Obligations.SpecWordsDecode : Prop :=
  decodeTableWord 40 0xEF0201037E = some (.fencPlay [])
  ∧ decodeTableWord 48 0xEF3A0F31047E = some (.fencSetvol [0x0F])
  ∧ decodeTableWord 8 0x0 = some (.xorsum []) ∧ decodeTableWord 8 0x1 = some (.addsum [])
  ∧ decodeTableWord 8 0x4 = some (.fparse []) ∧ decodeTableWord 8 0x5 = some (.fdec [])
  ∧ decodeTableWord 8 0x8 = some (.henc 0) ∧ decodeTableWord 8 0x9 = some (.hdec [])
  ∧ decodeTableWord 8 0xA = some (.xfer 0 [] 0) ∧ decodeTableWord 8 0xD = some .trigger
  ∧ decodeTableWord 8 0xE = some .wserve ∧ decodeTableWord 8 0xF = some .wdfeed

/-- A step with a presentation at the head of the agenda, by a context that is not blocked and at its own port, runs the
operation at the front of the command stream, both taken off; a presentation by a blocked context (R223), or of a new sequence
by a context that is in one (R260), leaves the operation waiting; a step with another event there is that event (the model's
schedule, log 1, log 35). -/
def Obligations.StepRunsDecodedOperation : Prop :=
  (∀ (s : State) (es : List Ev) (who : Option Nat) (i : Instr) (rest : List Byte),
    s.agenda = .op who :: es → decode s.cmds = .ok (i, rest) →
    (s.mayPresent who = true → ownPort who i = true → inOrder who i s = true →
      step s = exec i { s with agenda := es, cmds := rest })
    ∧ (s.mayPresent who = false ∨ (ownPort who i = true ∧ inOrder who i s = false) →
      step s = .next { s with agenda := es }))
  ∧ ∀ (s : State) (e : Ev) (es : List Ev), s.agenda = e :: es → step s = runEvent e { s with agenda := es }

/-- `withFetchWord` makes the next step run the operation of its word, whatever the state, and nothing else (log 34). -/
def Obligations.FetchWordRunsItsOperation : Prop :=
  ∀ (s : State) (nbits w : Nat) (i : Instr), decodeTableWord nbits w = some i →
    step (s.withFetchWord nbits w) = exec i s
end

