-- ==== Sys2Proof/Laws/Buffers.lean ====
section
/-! SUPPORT. What the buffer primitives of spec/20_memory.md R81 do. -/

namespace Sys2Proof.Machine

/-- A write from index 0 puts the sequence in front. -/
@[simp] theorem memWrite_zero (buf v : List Byte) : memWrite buf 0 v = v ++ buf.drop v.length := by
  simp [memWrite]

/-- The size of a buffer after a write that begins within it. -/
theorem memWrite_length {buf v : List Byte} {a : Nat} (h : a ≤ buf.length) :
    (memWrite buf a v).length = max buf.length (a + v.length) := by
  simp [memWrite]
  omega

/-- A write within the size keeps the size. -/
theorem memWrite_length_of_le {buf v : List Byte} {a : Nat} (h : a + v.length ≤ buf.length) :
    (memWrite buf a v).length = buf.length := by
  rw [memWrite_length (by omega)]
  omega

/-- The first bytes of a buffer written from index 0. -/
theorem take_memWrite_zero (buf v : List Byte) : (memWrite buf 0 v).take v.length = v := by simp

/-- Writing the same sequence from index 0 twice is writing it once. -/
theorem memWrite_zero_twice (buf v : List Byte) : memWrite (memWrite buf 0 v) 0 v = memWrite buf 0 v := by simp

/-- A read within the valid length. -/
theorem memRead_of_le {buf : List Byte} {len a n : Nat} (h : a + n ≤ len) :
    memRead buf len a n = some ((buf.drop a).take n) := by
  simp [memRead, h]

/-- A read beyond the valid length has no value. -/
theorem memRead_beyond {buf : List Byte} {len a n : Nat} (h : len < a + n) : memRead buf len a n = none := by
  simp [memRead, h]

/-- The read of a whole valid part. -/
@[simp] theorem memRead_all (buf : List Byte) (len : Nat) : memRead buf len 0 len = some (buf.take len) := by
  simp [memRead]

/-- The read of one byte inside both the valid length and the buffer. -/
theorem memRead_one {buf : List Byte} {len a : Nat} (h : a < len) (hb : len ≤ buf.length) :
    memRead buf len a 1 = some [buf.getD a 0] := by
  have ha : a < buf.length := by omega
  rw [memRead_of_le (by omega), List.drop_eq_getElem_cons ha, List.getD_eq_getElem?_getD,
    List.getElem?_eq_getElem ha]
  rfl

/-- A one-byte read that answers a byte answers the byte at that index. -/
theorem getElem_of_memRead_one {buf : List Byte} {len a : Nat} {b : Byte} (h : memRead buf len a 1 = some [b]) :
    buf[a]? = some b := by
  unfold memRead at h
  split at h
  · have := Option.some.inj h
    have h0 : ((buf.drop a).take 1)[0]? = some b := by rw [this]; rfl
    simpa using h0
  · cases h

end Sys2Proof.Machine
end

