-- ==== Sys2Proof/Laws/Folds.lean ====
section
/-! SUPPORT. The two checksum folds (spec/40_checksum.md R132, R136) from any accumulator. -/

namespace Sys2Proof.Machine

/-- Absorbing a sequence into an accumulator is combining with the fold. -/
theorem xor_foldl (s : List Byte) (a : Byte) : s.foldl (fun acc b => acc ^^^ b) a = a ^^^ xorFold s := by
  induction s generalizing a with
  | nil => simp [xorFold]
  | cons b s ih =>
    have e : xorFold (b :: s) = b ^^^ xorFold s := by rw [xorFold, List.foldl_cons, ih]; simp
    rw [List.foldl_cons, ih, e, BitVec.xor_assoc]

@[simp] theorem xorFold_nil : xorFold [] = 0 := rfl

@[simp] theorem xorFold_cons (b : Byte) (s : List Byte) : xorFold (b :: s) = b ^^^ xorFold s := by
  rw [xorFold, List.foldl_cons, xor_foldl]
  simp

@[simp] theorem xorFold_append (a b : List Byte) : xorFold (a ++ b) = xorFold a ^^^ xorFold b := by
  induction a with
  | nil => simp
  | cons x a ih => simp [ih, BitVec.xor_assoc]

theorem add_foldl (s : List Byte) (a : Byte) : s.foldl (fun acc b => acc + b) a = a + addFold s := by
  induction s generalizing a with
  | nil => simp [addFold]
  | cons b s ih =>
    have e : addFold (b :: s) = b + addFold s := by rw [addFold, List.foldl_cons, ih]; simp
    rw [List.foldl_cons, ih, e, BitVec.add_assoc]

@[simp] theorem addFold_nil : addFold [] = 0 := rfl

@[simp] theorem addFold_cons (b : Byte) (s : List Byte) : addFold (b :: s) = b + addFold s := by
  rw [addFold, List.foldl_cons, add_foldl]
  simp

@[simp] theorem addFold_append (a b : List Byte) : addFold (a ++ b) = addFold a + addFold b := by
  induction a with
  | nil => simp
  | cons x a ih => simp [ih, BitVec.add_assoc]

/-- The fold of a sequence followed by its own fold (R132 f): zero for the exclusive-or. -/
theorem xorFold_append_self (s : List Byte) : xorFold (s ++ [xorFold s]) = 0 := by simp

/-- Replacing one byte of the checked range changes the exclusive-or fold by the difference. -/
theorem xorFold_set (s : List Byte) (i : Nat) (h : i < s.length) (b : Byte) :
    xorFold (s.set i b) = xorFold s ^^^ s[i] ^^^ b := by
  induction s generalizing i with
  | nil => simp at h
  | cons x s ih =>
    cases i with
    | zero =>
      simp only [List.set_cons_zero, xorFold_cons, List.getElem_cons_zero]
      rw [BitVec.xor_comm x, BitVec.xor_assoc (xorFold s), BitVec.xor_self, BitVec.xor_zero, BitVec.xor_comm]
    | succ i =>
      simp only [List.set_cons_succ, xorFold_cons, List.getElem_cons_succ]
      rw [ih i (by simpa using h)]
      simp only [BitVec.xor_assoc]

/-- Replacing one byte of the checked range changes the sum by the difference. -/
theorem addFold_set (s : List Byte) (i : Nat) (h : i < s.length) (b : Byte) :
    addFold (s.set i b) = addFold s - s[i] + b := by
  induction s generalizing i with
  | nil => simp at h
  | cons x s ih =>
    cases i with
    | zero => simp only [List.set_cons_zero, addFold_cons, List.getElem_cons_zero]; bv_omega
    | succ i =>
      simp only [List.set_cons_succ, addFold_cons, List.getElem_cons_succ]
      rw [ih i (by simpa using h)]
      bv_omega

/-- The sum fold is the exact sum reduced modulo 256 (R136 e). -/
theorem addFold_toNat (s : List Byte) : (addFold s).toNat = (s.map BitVec.toNat).sum % 256 := by
  induction s with
  | nil => rfl
  | cons b s ih => simp [ih, BitVec.toNat_add]

end Sys2Proof.Machine
end

