-- ==== Sys2Proof/Laws/Parameters.lean ====
section
/-! SUPPORT. What is known of the parameters: the constraints of spec/00_scope.md R8, and what they make of the
catalogue. -/

namespace Sys2Proof.Machine

/-- The illustrative instance meets the constraints. -/
theorem illustrative_valid : Params.illustrative.valid = true := by decide

/-- The machine's parameters meet the constraints, whatever they are. -/
theorem params_valid : Config.params.valid = true := by
  unfold Config.params
  split
  · assumption
  · exact illustrative_valid

/-- The constraints of a valid instance, one by one. -/
theorem valid_facts {c : Params} (h : c.valid = true) :
    c.codes.Nodup ∧ Config.startByte ∉ c.codes ∧ Config.endByte ∉ c.codes
    ∧ (∃ b ∈ c.ackPrefix, ishex b = false)
    ∧ (∀ b ∈ c.stripSet, ishex b = false ∧ b ∉ c.ackPrefix)
    ∧ 1 ≤ c.nReq ∧ 2 ≤ c.tickW ∧ (∀ m, c.txfMax = some m → 7 ≤ m) ∧ c.wdFeed < c.wdWindow
    ∧ c.trigReq < c.nReq ∧ c.trigTmo < 2 ^ c.tickW
    ∧ (∀ m, c.respMax = some m → 1 ≤ m) ∧ (∀ m, c.txtMax = some m → 8 ≤ m) := by
  simp only [Params.valid, Bool.and_eq_true, decide_eq_true_eq, Bool.not_eq_true', List.any_eq_true,
    List.all_eq_true, List.contains_eq_mem, decide_eq_false_iff_not] at h
  obtain ⟨⟨⟨⟨⟨⟨⟨⟨⟨⟨⟨⟨⟨h1, h2⟩, h3⟩, h4⟩, h5⟩, h6⟩, h7⟩, _⟩, h9⟩, h10⟩, h11⟩, h12⟩, h13⟩, h14⟩ := h
  refine ⟨h1, h2, h3, h4, fun b hb => h5 b hb, h6, h7, ?_, h12, h13, h14, ?_, ?_⟩
  · intro m hm; simpa [hm, Params.atLeast] using h10
  · intro m hm; simpa [hm, Params.atLeast] using h9
  · intro m hm; simpa [hm, Params.atLeast] using h11

/-- The code of a catalogue row is the code of its index. -/
theorem catEntry_code (c : Params) (sel : Nat) : (catEntry c sel).map CatEntry.code = c.codes[sel]? := by
  rw [catEntry, ← List.getElem?_map]
  rfl

/-- The arities of R104. -/
theorem catEntry_arity (c : Params) (sel : Nat) :
    (catEntry c sel).map CatEntry.paramByteLength = [0, 0, 0, 0, 0, 0, 0, 0, 0, 0, 0, 1, 1, 2][sel]? := by
  rw [catEntry, ← List.getElem?_map]
  rfl

/-- Indices 14 and above select nothing (R70). -/
theorem catEntry_none {c : Params} {sel : Nat} : catEntry c sel = none ↔ 14 ≤ sel := by
  simp [catEntry, cat]

/-- With distinct codes, the index of a code is the first place it stands at. -/
theorem catIndex_eq {c : Params} (h : c.valid = true) (cmd : Byte) :
    catIndex c cmd = if cmd ∈ c.codes then some (c.codes.idxOf cmd) else none := by
  have hn := (valid_facts h).1
  have key : ∀ (i : Nat) (hi : i < c.codes.length), c.codes[i] = cmd → c.codes.idxOf cmd = i := by
    intro i hi e
    subst e
    exact hn.idxOf_getElem i hi
  unfold catIndex
  split
  · next e =>
    have hm : cmd ∈ c.codes := by rw [e]; simp [Params.codes]
    rw [if_pos hm, key 0 (by simp [Params.codes]) (by simp [Params.codes, e])]
  · split
    · next e =>
      have hm : cmd ∈ c.codes := by rw [e]; simp [Params.codes]
      rw [if_pos hm, key 11 (by simp [Params.codes]) (by simp [Params.codes, e])]
    · split
      · next hm =>
        rw [List.findIdx?_eq_some_iff_findIdx_eq]
        exact ⟨List.idxOf_lt_length_of_mem hm, rfl⟩
      · next hm =>
        rw [List.findIdx?_eq_none_iff]
        intro x hx
        simp only [beq_eq_false_iff_ne, ne_eq]
        rintro rfl
        exact hm hx

/-- The index of a row's code is the row (R8: codes are pairwise distinct). -/
theorem catIndex_code {c : Params} (h : c.valid = true) {sel : Nat} {k : Byte} (hk : c.codes[sel]? = some k) :
    catIndex c k = some sel := by
  obtain ⟨hi, rfl⟩ := List.getElem?_eq_some_iff.1 hk
  rw [catIndex_eq h, if_pos (List.getElem_mem hi), (valid_facts h).1.idxOf_getElem sel hi]

/-- What the catalogue lookup answers is a row with that code. -/
theorem code_of_catIndex {c : Params} (h : c.valid = true) {k : Byte} {i : Nat} (hi : catIndex c k = some i) :
    c.codes[i]? = some k := by
  rw [catIndex_eq h] at hi
  split at hi
  · next hm =>
    obtain rfl := Option.some.inj hi
    exact List.getElem?_eq_some_iff.2 ⟨List.idxOf_lt_length_of_mem hm, List.getElem_idxOf _⟩
  · cases hi

/-- A catalogue index is at most 13. -/
theorem catIndex_lt {c : Params} {k : Byte} {i : Nat} (hi : catIndex c k = some i) : i < 14 := by
  unfold catIndex at hi
  split at hi
  · cases hi; decide
  · split at hi
    · cases hi; decide
    · obtain ⟨hl, -⟩ := List.findIdx?_eq_some_iff_getElem.1 hi
      simpa [Params.codes] using hl

end Sys2Proof.Machine
end

