-- ==== Sys2Proof/Laws/Encoding.lean ====
section
/-! SUPPORT. The operand spellings of the command stream: each reader undoes its writer and accepts nothing else. -/

namespace Sys2Proof

open Machine

/-- A number does not depend on the fuel it is written with, if that is enough. -/
theorem encNatFuel_enough {f g n : Nat} (hf : n ≤ f) (hg : n ≤ g) : encNatFuel f n = encNatFuel g n := by
  induction f generalizing g n with
  | zero => obtain rfl := Nat.le_zero.1 hf; cases g <;> simp [encNatFuel]
  | succ f ih =>
    cases g with
    | zero => obtain rfl := Nat.le_zero.1 hg; simp [encNatFuel]
    | succ g =>
      simp only [encNatFuel]
      split
      · rfl
      · rw [ih (g := g) (by omega) (by omega)]

/-- A number below 128 is one byte. -/
theorem encNat_small {n : Nat} (h : n < 128) : encNat n = [BitVec.ofNat 8 n] := by
  cases n with
  | zero => rfl
  | succ n => simp [encNat, encNatFuel, h]

/-- A larger number is its low seven bits with the high bit set, and the rest. -/
theorem encNat_large {n : Nat} (h : 128 ≤ n) : encNat n = BitVec.ofNat 8 (128 + n % 128) :: encNat (n / 128) := by
  obtain ⟨m, rfl⟩ : ∃ m, n = m + 1 := ⟨n - 1, by omega⟩
  rw [encNat, encNatFuel, if_neg (by omega), encNat, encNatFuel_enough (f := m) (by omega) (Nat.le_refl _)]

/-- Reading a number that was written. -/
@[simp] theorem decNat_encNat (n : Nat) (rest : List Byte) : decNat (encNat n ++ rest) = .ok (n, rest) := by
  induction n using Nat.strongRecOn with
  | _ n ih =>
    by_cases h : n < 128
    · have : (BitVec.ofNat 8 n).toNat = n := by simp only [BitVec.toNat_ofNat]; omega
      rw [encNat_small h, List.singleton_append, decNat, if_pos (by omega), this]
    · have hb : (BitVec.ofNat 8 (128 + n % 128)).toNat = 128 + n % 128 := by
        simp only [BitVec.toNat_ofNat]; omega
      have h0 : n / 128 ≠ 0 := by omega
      rw [encNat_large (by omega), List.cons_append, decNat, hb, if_neg (by omega), ih (n / 128) (by omega)]
      simp only [if_neg h0, Except.ok.injEq, Prod.mk.injEq, and_true]
      omega

/-- A number that reads was written so. -/
theorem encNat_decNat {bs rest : List Byte} {n : Nat} (h : decNat bs = .ok (n, rest)) : bs = encNat n ++ rest := by
  induction bs generalizing n with
  | nil => cases h
  | cons b bs ih =>
    rw [decNat] at h
    have hb := b.isLt
    split at h
    · next hlt =>
      simp only [Except.ok.injEq, Prod.mk.injEq] at h
      obtain ⟨rfl, rfl⟩ := h
      rw [encNat_small hlt]
      simp
    · next hge =>
      split at h
      · cases h
      · next m r hm =>
        split at h
        · cases h
        · next h0 =>
          simp only [Except.ok.injEq, Prod.mk.injEq] at h
          obtain ⟨rfl, rfl⟩ := h
          rw [encNat_large (by omega), List.cons_append, ih hm]
          congr 1
          · apply BitVec.eq_of_toNat_eq
            simp only [BitVec.toNat_ofNat]
            omega
          · congr 2
            omega

/-- Reading a sequence that was written. -/
@[simp] theorem decSeq_encSeq (s rest : List Byte) : decSeq (encSeq s ++ rest) = .ok (s, rest) := by
  simp [decSeq, encSeq, List.append_assoc]

/-- A sequence that reads was written so. -/
theorem encSeq_decSeq {bs rest s : List Byte} (h : decSeq bs = .ok (s, rest)) : bs = encSeq s ++ rest := by
  unfold decSeq at h
  split at h
  · cases h
  · next n r hn =>
    split at h
    · next hle =>
      simp only [Except.ok.injEq, Prod.mk.injEq] at h
      obtain ⟨rfl, rfl⟩ := h
      rw [encNat_decNat hn, encSeq]
      have : (r.take n).length = n := by simp [hle]
      rw [this, List.append_assoc, List.take_append_drop]
    · cases h

/-- Joining the two bytes of a 16-bit value. -/
@[simp] theorem join16_split16 (n : BitVec 16) : join16 (n.extractLsb' 8 8) (n.extractLsb' 0 8) = n := by
  apply BitVec.eq_of_toNat_eq
  simp only [join16, BitVec.toNat_ofNat, BitVec.extractLsb'_toNat, Nat.shiftRight_eq_div_pow]
  omega

/-- Joining the four bytes of a 32-bit pattern. -/
@[simp] theorem join32_split32 (w : Word32) :
    join32 (w.extractLsb' 24 8) (w.extractLsb' 16 8) (w.extractLsb' 8 8) (w.extractLsb' 0 8) = w := by
  apply BitVec.eq_of_toNat_eq
  simp only [join32, BitVec.toNat_ofNat, BitVec.extractLsb'_toNat, Nat.shiftRight_eq_div_pow]
  omega

/-- Splitting what was joined from two bytes. -/
@[simp] theorem split16_join16 (hi lo : Byte) : split16 (join16 hi lo) = [hi, lo] := by
  have := hi.isLt
  have := lo.isLt
  simp only [split16, List.cons.injEq, and_true]
  constructor <;>
    (apply BitVec.eq_of_toNat_eq
     simp only [join16, BitVec.toNat_ofNat, BitVec.extractLsb'_toNat, Nat.shiftRight_eq_div_pow]
     omega)

/-- Splitting what was joined from four bytes. -/
@[simp] theorem split32_join32 (b3 b2 b1 b0 : Byte) : split32 (join32 b3 b2 b1 b0) = [b3, b2, b1, b0] := by
  have := b3.isLt
  have := b2.isLt
  have := b1.isLt
  have := b0.isLt
  simp only [split32, List.cons.injEq, and_true]
  refine ⟨?_, ?_, ?_, ?_⟩ <;>
    (apply BitVec.eq_of_toNat_eq
     simp only [join32, BitVec.toNat_ofNat, BitVec.extractLsb'_toNat, Nat.shiftRight_eq_div_pow]
     omega)

end Sys2Proof
end

