-- ==== Sys2Proof/Laws/State.lean ====
section
/-! SUPPORT. One lemma per field per update of the state, so that no later proof unfolds a record update. -/

namespace Sys2Proof.Machine

/-! ### withXg -/

@[simp] theorem State.withXg_xg (s : State) (x : XGState) : (s.withXg x).xg = x := rfl
@[simp] theorem State.withXg_sg (s : State) (x : XGState) : (s.withXg x).sg = s.sg := rfl
@[simp] theorem State.withXg_fe (s : State) (x : XGState) : (s.withXg x).fe = s.fe := rfl
@[simp] theorem State.withXg_fd (s : State) (x : XGState) : (s.withXg x).fd = s.fd := rfl
@[simp] theorem State.withXg_he (s : State) (x : XGState) : (s.withXg x).he = s.he := rfl
@[simp] theorem State.withXg_hd (s : State) (x : XGState) : (s.withXg x).hd = s.hd := rfl
@[simp] theorem State.withXg_ma (s : State) (x : XGState) : (s.withXg x).ma = s.ma := rfl
@[simp] theorem State.withXg_line (s : State) (x : XGState) : (s.withXg x).line = s.line := rfl
@[simp] theorem State.withXg_now (s : State) (x : XGState) : (s.withXg x).now = s.now := rfl
@[simp] theorem State.withXg_bridge (s : State) (x : XGState) : (s.withXg x).bridge = s.bridge := rfl
@[simp] theorem State.withXg_wd (s : State) (x : XGState) : (s.withXg x).wd = s.wd := rfl
@[simp] theorem State.withXg_host (s : State) (x : XGState) : (s.withXg x).host = s.host := rfl
@[simp] theorem State.withXg_cmds (s : State) (x : XGState) : (s.withXg x).cmds = s.cmds := rfl
@[simp] theorem State.withXg_agenda (s : State) (x : XGState) : (s.withXg x).agenda = s.agenda := rfl
@[simp] theorem State.withXg_freeCtr (s : State) (x : XGState) : (s.withXg x).freeCtr = s.freeCtr := rfl
@[simp] theorem State.withXg_reqOf (s : State) (x : XGState) (i : Nat) : (s.withXg x).reqOf i = s.reqOf i := rfl
@[simp] theorem State.withXg_resOf (s : State) (x : XGState) (i : Nat) : (s.withXg x).resOf i = s.resOf i := rfl
@[simp] theorem State.withXg_taskOf (s : State) (x : XGState) (i : Nat) : (s.withXg x).taskOf i = s.taskOf i := rfl
@[simp] theorem State.withXg_resultOf (s : State) (x : XGState) (i : Nat) : (s.withXg x).resultOf i = s.resultOf i := rfl
@[simp] theorem State.withXg_blocked (s : State) (x : XGState) (i : Nat) : (s.withXg x).blocked i = s.blocked i := rfl

/-! ### withSg -/

@[simp] theorem State.withSg_xg (s : State) (x : SGState) : (s.withSg x).xg = s.xg := rfl
@[simp] theorem State.withSg_sg (s : State) (x : SGState) : (s.withSg x).sg = x := rfl
@[simp] theorem State.withSg_fe (s : State) (x : SGState) : (s.withSg x).fe = s.fe := rfl
@[simp] theorem State.withSg_fd (s : State) (x : SGState) : (s.withSg x).fd = s.fd := rfl
@[simp] theorem State.withSg_he (s : State) (x : SGState) : (s.withSg x).he = s.he := rfl
@[simp] theorem State.withSg_hd (s : State) (x : SGState) : (s.withSg x).hd = s.hd := rfl
@[simp] theorem State.withSg_ma (s : State) (x : SGState) : (s.withSg x).ma = s.ma := rfl
@[simp] theorem State.withSg_line (s : State) (x : SGState) : (s.withSg x).line = s.line := rfl
@[simp] theorem State.withSg_now (s : State) (x : SGState) : (s.withSg x).now = s.now := rfl
@[simp] theorem State.withSg_bridge (s : State) (x : SGState) : (s.withSg x).bridge = s.bridge := rfl
@[simp] theorem State.withSg_wd (s : State) (x : SGState) : (s.withSg x).wd = s.wd := rfl
@[simp] theorem State.withSg_host (s : State) (x : SGState) : (s.withSg x).host = s.host := rfl
@[simp] theorem State.withSg_cmds (s : State) (x : SGState) : (s.withSg x).cmds = s.cmds := rfl
@[simp] theorem State.withSg_agenda (s : State) (x : SGState) : (s.withSg x).agenda = s.agenda := rfl
@[simp] theorem State.withSg_freeCtr (s : State) (x : SGState) : (s.withSg x).freeCtr = s.freeCtr := rfl
@[simp] theorem State.withSg_reqOf (s : State) (x : SGState) (i : Nat) : (s.withSg x).reqOf i = s.reqOf i := rfl
@[simp] theorem State.withSg_resOf (s : State) (x : SGState) (i : Nat) : (s.withSg x).resOf i = s.resOf i := rfl
@[simp] theorem State.withSg_taskOf (s : State) (x : SGState) (i : Nat) : (s.withSg x).taskOf i = s.taskOf i := rfl
@[simp] theorem State.withSg_resultOf (s : State) (x : SGState) (i : Nat) : (s.withSg x).resultOf i = s.resultOf i := rfl
@[simp] theorem State.withSg_blocked (s : State) (x : SGState) (i : Nat) : (s.withSg x).blocked i = s.blocked i := rfl

/-! ### withFe -/

@[simp] theorem State.withFe_xg (s : State) (x : FEState) : (s.withFe x).xg = s.xg := rfl
@[simp] theorem State.withFe_sg (s : State) (x : FEState) : (s.withFe x).sg = s.sg := rfl
@[simp] theorem State.withFe_fe (s : State) (x : FEState) : (s.withFe x).fe = x := rfl
@[simp] theorem State.withFe_fd (s : State) (x : FEState) : (s.withFe x).fd = s.fd := rfl
@[simp] theorem State.withFe_he (s : State) (x : FEState) : (s.withFe x).he = s.he := rfl
@[simp] theorem State.withFe_hd (s : State) (x : FEState) : (s.withFe x).hd = s.hd := rfl
@[simp] theorem State.withFe_ma (s : State) (x : FEState) : (s.withFe x).ma = s.ma := rfl
@[simp] theorem State.withFe_line (s : State) (x : FEState) : (s.withFe x).line = s.line := rfl
@[simp] theorem State.withFe_now (s : State) (x : FEState) : (s.withFe x).now = s.now := rfl
@[simp] theorem State.withFe_bridge (s : State) (x : FEState) : (s.withFe x).bridge = s.bridge := rfl
@[simp] theorem State.withFe_wd (s : State) (x : FEState) : (s.withFe x).wd = s.wd := rfl
@[simp] theorem State.withFe_host (s : State) (x : FEState) : (s.withFe x).host = s.host := rfl
@[simp] theorem State.withFe_cmds (s : State) (x : FEState) : (s.withFe x).cmds = s.cmds := rfl
@[simp] theorem State.withFe_agenda (s : State) (x : FEState) : (s.withFe x).agenda = s.agenda := rfl
@[simp] theorem State.withFe_freeCtr (s : State) (x : FEState) : (s.withFe x).freeCtr = s.freeCtr := rfl
@[simp] theorem State.withFe_reqOf (s : State) (x : FEState) (i : Nat) : (s.withFe x).reqOf i = s.reqOf i := rfl
@[simp] theorem State.withFe_resOf (s : State) (x : FEState) (i : Nat) : (s.withFe x).resOf i = s.resOf i := rfl
@[simp] theorem State.withFe_taskOf (s : State) (x : FEState) (i : Nat) : (s.withFe x).taskOf i = s.taskOf i := rfl
@[simp] theorem State.withFe_resultOf (s : State) (x : FEState) (i : Nat) : (s.withFe x).resultOf i = s.resultOf i := rfl
@[simp] theorem State.withFe_blocked (s : State) (x : FEState) (i : Nat) : (s.withFe x).blocked i = s.blocked i := rfl

/-! ### withFd -/

@[simp] theorem State.withFd_xg (s : State) (x : FDState) : (s.withFd x).xg = s.xg := rfl
@[simp] theorem State.withFd_sg (s : State) (x : FDState) : (s.withFd x).sg = s.sg := rfl
@[simp] theorem State.withFd_fe (s : State) (x : FDState) : (s.withFd x).fe = s.fe := rfl
@[simp] theorem State.withFd_fd (s : State) (x : FDState) : (s.withFd x).fd = x := rfl
@[simp] theorem State.withFd_he (s : State) (x : FDState) : (s.withFd x).he = s.he := rfl
@[simp] theorem State.withFd_hd (s : State) (x : FDState) : (s.withFd x).hd = s.hd := rfl
@[simp] theorem State.withFd_ma (s : State) (x : FDState) : (s.withFd x).ma = s.ma := rfl
@[simp] theorem State.withFd_line (s : State) (x : FDState) : (s.withFd x).line = s.line := rfl
@[simp] theorem State.withFd_now (s : State) (x : FDState) : (s.withFd x).now = s.now := rfl
@[simp] theorem State.withFd_bridge (s : State) (x : FDState) : (s.withFd x).bridge = s.bridge := rfl
@[simp] theorem State.withFd_wd (s : State) (x : FDState) : (s.withFd x).wd = s.wd := rfl
@[simp] theorem State.withFd_host (s : State) (x : FDState) : (s.withFd x).host = s.host := rfl
@[simp] theorem State.withFd_cmds (s : State) (x : FDState) : (s.withFd x).cmds = s.cmds := rfl
@[simp] theorem State.withFd_agenda (s : State) (x : FDState) : (s.withFd x).agenda = s.agenda := rfl
@[simp] theorem State.withFd_freeCtr (s : State) (x : FDState) : (s.withFd x).freeCtr = s.freeCtr := rfl
@[simp] theorem State.withFd_reqOf (s : State) (x : FDState) (i : Nat) : (s.withFd x).reqOf i = s.reqOf i := rfl
@[simp] theorem State.withFd_resOf (s : State) (x : FDState) (i : Nat) : (s.withFd x).resOf i = s.resOf i := rfl
@[simp] theorem State.withFd_taskOf (s : State) (x : FDState) (i : Nat) : (s.withFd x).taskOf i = s.taskOf i := rfl
@[simp] theorem State.withFd_resultOf (s : State) (x : FDState) (i : Nat) : (s.withFd x).resultOf i = s.resultOf i := rfl
@[simp] theorem State.withFd_blocked (s : State) (x : FDState) (i : Nat) : (s.withFd x).blocked i = s.blocked i := rfl

/-! ### withHe -/

@[simp] theorem State.withHe_xg (s : State) (x : HEState) : (s.withHe x).xg = s.xg := rfl
@[simp] theorem State.withHe_sg (s : State) (x : HEState) : (s.withHe x).sg = s.sg := rfl
@[simp] theorem State.withHe_fe (s : State) (x : HEState) : (s.withHe x).fe = s.fe := rfl
@[simp] theorem State.withHe_fd (s : State) (x : HEState) : (s.withHe x).fd = s.fd := rfl
@[simp] theorem State.withHe_he (s : State) (x : HEState) : (s.withHe x).he = x := rfl
@[simp] theorem State.withHe_hd (s : State) (x : HEState) : (s.withHe x).hd = s.hd := rfl
@[simp] theorem State.withHe_ma (s : State) (x : HEState) : (s.withHe x).ma = s.ma := rfl
@[simp] theorem State.withHe_line (s : State) (x : HEState) : (s.withHe x).line = s.line := rfl
@[simp] theorem State.withHe_now (s : State) (x : HEState) : (s.withHe x).now = s.now := rfl
@[simp] theorem State.withHe_bridge (s : State) (x : HEState) : (s.withHe x).bridge = s.bridge := rfl
@[simp] theorem State.withHe_wd (s : State) (x : HEState) : (s.withHe x).wd = s.wd := rfl
@[simp] theorem State.withHe_host (s : State) (x : HEState) : (s.withHe x).host = s.host := rfl
@[simp] theorem State.withHe_cmds (s : State) (x : HEState) : (s.withHe x).cmds = s.cmds := rfl
@[simp] theorem State.withHe_agenda (s : State) (x : HEState) : (s.withHe x).agenda = s.agenda := rfl
@[simp] theorem State.withHe_freeCtr (s : State) (x : HEState) : (s.withHe x).freeCtr = s.freeCtr := rfl
@[simp] theorem State.withHe_reqOf (s : State) (x : HEState) (i : Nat) : (s.withHe x).reqOf i = s.reqOf i := rfl
@[simp] theorem State.withHe_resOf (s : State) (x : HEState) (i : Nat) : (s.withHe x).resOf i = s.resOf i := rfl
@[simp] theorem State.withHe_taskOf (s : State) (x : HEState) (i : Nat) : (s.withHe x).taskOf i = s.taskOf i := rfl
@[simp] theorem State.withHe_resultOf (s : State) (x : HEState) (i : Nat) : (s.withHe x).resultOf i = s.resultOf i := rfl
@[simp] theorem State.withHe_blocked (s : State) (x : HEState) (i : Nat) : (s.withHe x).blocked i = s.blocked i := rfl

/-! ### withHd -/

@[simp] theorem State.withHd_xg (s : State) (x : HDState) : (s.withHd x).xg = s.xg := rfl
@[simp] theorem State.withHd_sg (s : State) (x : HDState) : (s.withHd x).sg = s.sg := rfl
@[simp] theorem State.withHd_fe (s : State) (x : HDState) : (s.withHd x).fe = s.fe := rfl
@[simp] theorem State.withHd_fd (s : State) (x : HDState) : (s.withHd x).fd = s.fd := rfl
@[simp] theorem State.withHd_he (s : State) (x : HDState) : (s.withHd x).he = s.he := rfl
@[simp] theorem State.withHd_hd (s : State) (x : HDState) : (s.withHd x).hd = x := rfl
@[simp] theorem State.withHd_ma (s : State) (x : HDState) : (s.withHd x).ma = s.ma := rfl
@[simp] theorem State.withHd_line (s : State) (x : HDState) : (s.withHd x).line = s.line := rfl
@[simp] theorem State.withHd_now (s : State) (x : HDState) : (s.withHd x).now = s.now := rfl
@[simp] theorem State.withHd_bridge (s : State) (x : HDState) : (s.withHd x).bridge = s.bridge := rfl
@[simp] theorem State.withHd_wd (s : State) (x : HDState) : (s.withHd x).wd = s.wd := rfl
@[simp] theorem State.withHd_host (s : State) (x : HDState) : (s.withHd x).host = s.host := rfl
@[simp] theorem State.withHd_cmds (s : State) (x : HDState) : (s.withHd x).cmds = s.cmds := rfl
@[simp] theorem State.withHd_agenda (s : State) (x : HDState) : (s.withHd x).agenda = s.agenda := rfl
@[simp] theorem State.withHd_freeCtr (s : State) (x : HDState) : (s.withHd x).freeCtr = s.freeCtr := rfl
@[simp] theorem State.withHd_reqOf (s : State) (x : HDState) (i : Nat) : (s.withHd x).reqOf i = s.reqOf i := rfl
@[simp] theorem State.withHd_resOf (s : State) (x : HDState) (i : Nat) : (s.withHd x).resOf i = s.resOf i := rfl
@[simp] theorem State.withHd_taskOf (s : State) (x : HDState) (i : Nat) : (s.withHd x).taskOf i = s.taskOf i := rfl
@[simp] theorem State.withHd_resultOf (s : State) (x : HDState) (i : Nat) : (s.withHd x).resultOf i = s.resultOf i := rfl
@[simp] theorem State.withHd_blocked (s : State) (x : HDState) (i : Nat) : (s.withHd x).blocked i = s.blocked i := rfl

/-! ### withMa -/

@[simp] theorem State.withMa_xg (s : State) (x : MAState) : (s.withMa x).xg = s.xg := rfl
@[simp] theorem State.withMa_sg (s : State) (x : MAState) : (s.withMa x).sg = s.sg := rfl
@[simp] theorem State.withMa_fe (s : State) (x : MAState) : (s.withMa x).fe = s.fe := rfl
@[simp] theorem State.withMa_fd (s : State) (x : MAState) : (s.withMa x).fd = s.fd := rfl
@[simp] theorem State.withMa_he (s : State) (x : MAState) : (s.withMa x).he = s.he := rfl
@[simp] theorem State.withMa_hd (s : State) (x : MAState) : (s.withMa x).hd = s.hd := rfl
@[simp] theorem State.withMa_ma (s : State) (x : MAState) : (s.withMa x).ma = x := rfl
@[simp] theorem State.withMa_line (s : State) (x : MAState) : (s.withMa x).line = s.line := rfl
@[simp] theorem State.withMa_now (s : State) (x : MAState) : (s.withMa x).now = s.now := rfl
@[simp] theorem State.withMa_bridge (s : State) (x : MAState) : (s.withMa x).bridge = s.bridge := rfl
@[simp] theorem State.withMa_wd (s : State) (x : MAState) : (s.withMa x).wd = s.wd := rfl
@[simp] theorem State.withMa_host (s : State) (x : MAState) : (s.withMa x).host = s.host := rfl
@[simp] theorem State.withMa_cmds (s : State) (x : MAState) : (s.withMa x).cmds = s.cmds := rfl
@[simp] theorem State.withMa_agenda (s : State) (x : MAState) : (s.withMa x).agenda = s.agenda := rfl
@[simp] theorem State.withMa_freeCtr (s : State) (x : MAState) : (s.withMa x).freeCtr = s.freeCtr := rfl
@[simp] theorem State.withMa_taskOf (s : State) (x : MAState) (i : Nat) : (s.withMa x).taskOf i = s.taskOf i := rfl
@[simp] theorem State.withMa_resultOf (s : State) (x : MAState) (i : Nat) : (s.withMa x).resultOf i = s.resultOf i := rfl

/-! ### withLine -/

@[simp] theorem State.withLine_xg (s : State) (x : LineState) : (s.withLine x).xg = s.xg := rfl
@[simp] theorem State.withLine_sg (s : State) (x : LineState) : (s.withLine x).sg = s.sg := rfl
@[simp] theorem State.withLine_fe (s : State) (x : LineState) : (s.withLine x).fe = s.fe := rfl
@[simp] theorem State.withLine_fd (s : State) (x : LineState) : (s.withLine x).fd = s.fd := rfl
@[simp] theorem State.withLine_he (s : State) (x : LineState) : (s.withLine x).he = s.he := rfl
@[simp] theorem State.withLine_hd (s : State) (x : LineState) : (s.withLine x).hd = s.hd := rfl
@[simp] theorem State.withLine_ma (s : State) (x : LineState) : (s.withLine x).ma = s.ma := rfl
@[simp] theorem State.withLine_line (s : State) (x : LineState) : (s.withLine x).line = x := rfl
@[simp] theorem State.withLine_now (s : State) (x : LineState) : (s.withLine x).now = s.now := rfl
@[simp] theorem State.withLine_bridge (s : State) (x : LineState) : (s.withLine x).bridge = s.bridge := rfl
@[simp] theorem State.withLine_wd (s : State) (x : LineState) : (s.withLine x).wd = s.wd := rfl
@[simp] theorem State.withLine_host (s : State) (x : LineState) : (s.withLine x).host = s.host := rfl
@[simp] theorem State.withLine_cmds (s : State) (x : LineState) : (s.withLine x).cmds = s.cmds := rfl
@[simp] theorem State.withLine_agenda (s : State) (x : LineState) : (s.withLine x).agenda = s.agenda := rfl
@[simp] theorem State.withLine_freeCtr (s : State) (x : LineState) : (s.withLine x).freeCtr = s.freeCtr := rfl
@[simp] theorem State.withLine_reqOf (s : State) (x : LineState) (i : Nat) : (s.withLine x).reqOf i = s.reqOf i := rfl
@[simp] theorem State.withLine_resOf (s : State) (x : LineState) (i : Nat) : (s.withLine x).resOf i = s.resOf i := rfl
@[simp] theorem State.withLine_taskOf (s : State) (x : LineState) (i : Nat) : (s.withLine x).taskOf i = s.taskOf i := rfl
@[simp] theorem State.withLine_resultOf (s : State) (x : LineState) (i : Nat) : (s.withLine x).resultOf i = s.resultOf i := rfl
@[simp] theorem State.withLine_blocked (s : State) (x : LineState) (i : Nat) : (s.withLine x).blocked i = s.blocked i := rfl

/-! ### withNow -/

@[simp] theorem State.withNow_xg (s : State) (x : Nat) : (s.withNow x).xg = s.xg := rfl
@[simp] theorem State.withNow_sg (s : State) (x : Nat) : (s.withNow x).sg = s.sg := rfl
@[simp] theorem State.withNow_fe (s : State) (x : Nat) : (s.withNow x).fe = s.fe := rfl
@[simp] theorem State.withNow_fd (s : State) (x : Nat) : (s.withNow x).fd = s.fd := rfl
@[simp] theorem State.withNow_he (s : State) (x : Nat) : (s.withNow x).he = s.he := rfl
@[simp] theorem State.withNow_hd (s : State) (x : Nat) : (s.withNow x).hd = s.hd := rfl
@[simp] theorem State.withNow_ma (s : State) (x : Nat) : (s.withNow x).ma = s.ma := rfl
@[simp] theorem State.withNow_line (s : State) (x : Nat) : (s.withNow x).line = s.line := rfl
@[simp] theorem State.withNow_now (s : State) (x : Nat) : (s.withNow x).now = x := rfl
@[simp] theorem State.withNow_bridge (s : State) (x : Nat) : (s.withNow x).bridge = s.bridge := rfl
@[simp] theorem State.withNow_wd (s : State) (x : Nat) : (s.withNow x).wd = s.wd := rfl
@[simp] theorem State.withNow_host (s : State) (x : Nat) : (s.withNow x).host = s.host := rfl
@[simp] theorem State.withNow_cmds (s : State) (x : Nat) : (s.withNow x).cmds = s.cmds := rfl
@[simp] theorem State.withNow_agenda (s : State) (x : Nat) : (s.withNow x).agenda = s.agenda := rfl
@[simp] theorem State.withNow_freeCtr (s : State) (x : Nat) : (s.withNow x).freeCtr = s.freeCtr := rfl
@[simp] theorem State.withNow_reqOf (s : State) (x : Nat) (i : Nat) : (s.withNow x).reqOf i = s.reqOf i := rfl
@[simp] theorem State.withNow_resOf (s : State) (x : Nat) (i : Nat) : (s.withNow x).resOf i = s.resOf i := rfl
@[simp] theorem State.withNow_taskOf (s : State) (x : Nat) (i : Nat) : (s.withNow x).taskOf i = s.taskOf i := rfl
@[simp] theorem State.withNow_resultOf (s : State) (x : Nat) (i : Nat) : (s.withNow x).resultOf i = s.resultOf i := rfl
@[simp] theorem State.withNow_blocked (s : State) (x : Nat) (i : Nat) : (s.withNow x).blocked i = s.blocked i := rfl

/-! ### withBridge -/

@[simp] theorem State.withBridge_xg (s : State) (x : BridgeState) : (s.withBridge x).xg = s.xg := rfl
@[simp] theorem State.withBridge_sg (s : State) (x : BridgeState) : (s.withBridge x).sg = s.sg := rfl
@[simp] theorem State.withBridge_fe (s : State) (x : BridgeState) : (s.withBridge x).fe = s.fe := rfl
@[simp] theorem State.withBridge_fd (s : State) (x : BridgeState) : (s.withBridge x).fd = s.fd := rfl
@[simp] theorem State.withBridge_he (s : State) (x : BridgeState) : (s.withBridge x).he = s.he := rfl
@[simp] theorem State.withBridge_hd (s : State) (x : BridgeState) : (s.withBridge x).hd = s.hd := rfl
@[simp] theorem State.withBridge_ma (s : State) (x : BridgeState) : (s.withBridge x).ma = s.ma := rfl
@[simp] theorem State.withBridge_line (s : State) (x : BridgeState) : (s.withBridge x).line = s.line := rfl
@[simp] theorem State.withBridge_now (s : State) (x : BridgeState) : (s.withBridge x).now = s.now := rfl
@[simp] theorem State.withBridge_bridge (s : State) (x : BridgeState) : (s.withBridge x).bridge = x := rfl
@[simp] theorem State.withBridge_wd (s : State) (x : BridgeState) : (s.withBridge x).wd = s.wd := rfl
@[simp] theorem State.withBridge_host (s : State) (x : BridgeState) : (s.withBridge x).host = s.host := rfl
@[simp] theorem State.withBridge_cmds (s : State) (x : BridgeState) : (s.withBridge x).cmds = s.cmds := rfl
@[simp] theorem State.withBridge_agenda (s : State) (x : BridgeState) : (s.withBridge x).agenda = s.agenda := rfl
@[simp] theorem State.withBridge_freeCtr (s : State) (x : BridgeState) : (s.withBridge x).freeCtr = s.freeCtr := rfl
@[simp] theorem State.withBridge_reqOf (s : State) (x : BridgeState) (i : Nat) : (s.withBridge x).reqOf i = s.reqOf i := rfl
@[simp] theorem State.withBridge_resOf (s : State) (x : BridgeState) (i : Nat) : (s.withBridge x).resOf i = s.resOf i := rfl
@[simp] theorem State.withBridge_taskOf (s : State) (x : BridgeState) (i : Nat) : (s.withBridge x).taskOf i = s.taskOf i := rfl
@[simp] theorem State.withBridge_resultOf (s : State) (x : BridgeState) (i : Nat) : (s.withBridge x).resultOf i = s.resultOf i := rfl
@[simp] theorem State.withBridge_blocked (s : State) (x : BridgeState) (i : Nat) : (s.withBridge x).blocked i = s.blocked i := rfl

/-! ### withWd -/

@[simp] theorem State.withWd_xg (s : State) (x : WatchdogState) : (s.withWd x).xg = s.xg := rfl
@[simp] theorem State.withWd_sg (s : State) (x : WatchdogState) : (s.withWd x).sg = s.sg := rfl
@[simp] theorem State.withWd_fe (s : State) (x : WatchdogState) : (s.withWd x).fe = s.fe := rfl
@[simp] theorem State.withWd_fd (s : State) (x : WatchdogState) : (s.withWd x).fd = s.fd := rfl
@[simp] theorem State.withWd_he (s : State) (x : WatchdogState) : (s.withWd x).he = s.he := rfl
@[simp] theorem State.withWd_hd (s : State) (x : WatchdogState) : (s.withWd x).hd = s.hd := rfl
@[simp] theorem State.withWd_ma (s : State) (x : WatchdogState) : (s.withWd x).ma = s.ma := rfl
@[simp] theorem State.withWd_line (s : State) (x : WatchdogState) : (s.withWd x).line = s.line := rfl
@[simp] theorem State.withWd_now (s : State) (x : WatchdogState) : (s.withWd x).now = s.now := rfl
@[simp] theorem State.withWd_bridge (s : State) (x : WatchdogState) : (s.withWd x).bridge = s.bridge := rfl
@[simp] theorem State.withWd_wd (s : State) (x : WatchdogState) : (s.withWd x).wd = x := rfl
@[simp] theorem State.withWd_host (s : State) (x : WatchdogState) : (s.withWd x).host = s.host := rfl
@[simp] theorem State.withWd_cmds (s : State) (x : WatchdogState) : (s.withWd x).cmds = s.cmds := rfl
@[simp] theorem State.withWd_agenda (s : State) (x : WatchdogState) : (s.withWd x).agenda = s.agenda := rfl
@[simp] theorem State.withWd_freeCtr (s : State) (x : WatchdogState) : (s.withWd x).freeCtr = s.freeCtr := rfl
@[simp] theorem State.withWd_reqOf (s : State) (x : WatchdogState) (i : Nat) : (s.withWd x).reqOf i = s.reqOf i := rfl
@[simp] theorem State.withWd_resOf (s : State) (x : WatchdogState) (i : Nat) : (s.withWd x).resOf i = s.resOf i := rfl
@[simp] theorem State.withWd_taskOf (s : State) (x : WatchdogState) (i : Nat) : (s.withWd x).taskOf i = s.taskOf i := rfl
@[simp] theorem State.withWd_resultOf (s : State) (x : WatchdogState) (i : Nat) : (s.withWd x).resultOf i = s.resultOf i := rfl
@[simp] theorem State.withWd_blocked (s : State) (x : WatchdogState) (i : Nat) : (s.withWd x).blocked i = s.blocked i := rfl

/-! ### withHost -/

@[simp] theorem State.withHost_xg (s : State) (x : HostState) : (s.withHost x).xg = s.xg := rfl
@[simp] theorem State.withHost_sg (s : State) (x : HostState) : (s.withHost x).sg = s.sg := rfl
@[simp] theorem State.withHost_fe (s : State) (x : HostState) : (s.withHost x).fe = s.fe := rfl
@[simp] theorem State.withHost_fd (s : State) (x : HostState) : (s.withHost x).fd = s.fd := rfl
@[simp] theorem State.withHost_he (s : State) (x : HostState) : (s.withHost x).he = s.he := rfl
@[simp] theorem State.withHost_hd (s : State) (x : HostState) : (s.withHost x).hd = s.hd := rfl
@[simp] theorem State.withHost_ma (s : State) (x : HostState) : (s.withHost x).ma = s.ma := rfl
@[simp] theorem State.withHost_line (s : State) (x : HostState) : (s.withHost x).line = s.line := rfl
@[simp] theorem State.withHost_now (s : State) (x : HostState) : (s.withHost x).now = s.now := rfl
@[simp] theorem State.withHost_bridge (s : State) (x : HostState) : (s.withHost x).bridge = s.bridge := rfl
@[simp] theorem State.withHost_wd (s : State) (x : HostState) : (s.withHost x).wd = s.wd := rfl
@[simp] theorem State.withHost_host (s : State) (x : HostState) : (s.withHost x).host = x := rfl
@[simp] theorem State.withHost_cmds (s : State) (x : HostState) : (s.withHost x).cmds = s.cmds := rfl
@[simp] theorem State.withHost_agenda (s : State) (x : HostState) : (s.withHost x).agenda = s.agenda := rfl
@[simp] theorem State.withHost_freeCtr (s : State) (x : HostState) : (s.withHost x).freeCtr = s.freeCtr := rfl
@[simp] theorem State.withHost_reqOf (s : State) (x : HostState) (i : Nat) : (s.withHost x).reqOf i = s.reqOf i := rfl
@[simp] theorem State.withHost_resOf (s : State) (x : HostState) (i : Nat) : (s.withHost x).resOf i = s.resOf i := rfl
@[simp] theorem State.withHost_blocked (s : State) (x : HostState) (i : Nat) : (s.withHost x).blocked i = s.blocked i := rfl

/-! ### withCmds -/

@[simp] theorem State.withCmds_xg (s : State) (x : List Byte) : (s.withCmds x).xg = s.xg := rfl
@[simp] theorem State.withCmds_sg (s : State) (x : List Byte) : (s.withCmds x).sg = s.sg := rfl
@[simp] theorem State.withCmds_fe (s : State) (x : List Byte) : (s.withCmds x).fe = s.fe := rfl
@[simp] theorem State.withCmds_fd (s : State) (x : List Byte) : (s.withCmds x).fd = s.fd := rfl
@[simp] theorem State.withCmds_he (s : State) (x : List Byte) : (s.withCmds x).he = s.he := rfl
@[simp] theorem State.withCmds_hd (s : State) (x : List Byte) : (s.withCmds x).hd = s.hd := rfl
@[simp] theorem State.withCmds_ma (s : State) (x : List Byte) : (s.withCmds x).ma = s.ma := rfl
@[simp] theorem State.withCmds_line (s : State) (x : List Byte) : (s.withCmds x).line = s.line := rfl
@[simp] theorem State.withCmds_now (s : State) (x : List Byte) : (s.withCmds x).now = s.now := rfl
@[simp] theorem State.withCmds_bridge (s : State) (x : List Byte) : (s.withCmds x).bridge = s.bridge := rfl
@[simp] theorem State.withCmds_wd (s : State) (x : List Byte) : (s.withCmds x).wd = s.wd := rfl
@[simp] theorem State.withCmds_host (s : State) (x : List Byte) : (s.withCmds x).host = s.host := rfl
@[simp] theorem State.withCmds_cmds (s : State) (x : List Byte) : (s.withCmds x).cmds = x := rfl
@[simp] theorem State.withCmds_agenda (s : State) (x : List Byte) : (s.withCmds x).agenda = s.agenda := rfl
@[simp] theorem State.withCmds_freeCtr (s : State) (x : List Byte) : (s.withCmds x).freeCtr = s.freeCtr := rfl
@[simp] theorem State.withCmds_reqOf (s : State) (x : List Byte) (i : Nat) : (s.withCmds x).reqOf i = s.reqOf i := rfl
@[simp] theorem State.withCmds_resOf (s : State) (x : List Byte) (i : Nat) : (s.withCmds x).resOf i = s.resOf i := rfl
@[simp] theorem State.withCmds_taskOf (s : State) (x : List Byte) (i : Nat) : (s.withCmds x).taskOf i = s.taskOf i := rfl
@[simp] theorem State.withCmds_resultOf (s : State) (x : List Byte) (i : Nat) : (s.withCmds x).resultOf i = s.resultOf i := rfl
@[simp] theorem State.withCmds_blocked (s : State) (x : List Byte) (i : Nat) : (s.withCmds x).blocked i = s.blocked i := rfl

/-! ### withAgenda -/

@[simp] theorem State.withAgenda_xg (s : State) (x : List Ev) : (s.withAgenda x).xg = s.xg := rfl
@[simp] theorem State.withAgenda_sg (s : State) (x : List Ev) : (s.withAgenda x).sg = s.sg := rfl
@[simp] theorem State.withAgenda_fe (s : State) (x : List Ev) : (s.withAgenda x).fe = s.fe := rfl
@[simp] theorem State.withAgenda_fd (s : State) (x : List Ev) : (s.withAgenda x).fd = s.fd := rfl
@[simp] theorem State.withAgenda_he (s : State) (x : List Ev) : (s.withAgenda x).he = s.he := rfl
@[simp] theorem State.withAgenda_hd (s : State) (x : List Ev) : (s.withAgenda x).hd = s.hd := rfl
@[simp] theorem State.withAgenda_ma (s : State) (x : List Ev) : (s.withAgenda x).ma = s.ma := rfl
@[simp] theorem State.withAgenda_line (s : State) (x : List Ev) : (s.withAgenda x).line = s.line := rfl
@[simp] theorem State.withAgenda_now (s : State) (x : List Ev) : (s.withAgenda x).now = s.now := rfl
@[simp] theorem State.withAgenda_bridge (s : State) (x : List Ev) : (s.withAgenda x).bridge = s.bridge := rfl
@[simp] theorem State.withAgenda_wd (s : State) (x : List Ev) : (s.withAgenda x).wd = s.wd := rfl
@[simp] theorem State.withAgenda_host (s : State) (x : List Ev) : (s.withAgenda x).host = s.host := rfl
@[simp] theorem State.withAgenda_cmds (s : State) (x : List Ev) : (s.withAgenda x).cmds = s.cmds := rfl
@[simp] theorem State.withAgenda_agenda (s : State) (x : List Ev) : (s.withAgenda x).agenda = x := rfl
@[simp] theorem State.withAgenda_freeCtr (s : State) (x : List Ev) : (s.withAgenda x).freeCtr = s.freeCtr := rfl
@[simp] theorem State.withAgenda_reqOf (s : State) (x : List Ev) (i : Nat) : (s.withAgenda x).reqOf i = s.reqOf i := rfl
@[simp] theorem State.withAgenda_resOf (s : State) (x : List Ev) (i : Nat) : (s.withAgenda x).resOf i = s.resOf i := rfl
@[simp] theorem State.withAgenda_taskOf (s : State) (x : List Ev) (i : Nat) : (s.withAgenda x).taskOf i = s.taskOf i := rfl
@[simp] theorem State.withAgenda_resultOf (s : State) (x : List Ev) (i : Nat) : (s.withAgenda x).resultOf i = s.resultOf i := rfl
@[simp] theorem State.withAgenda_blocked (s : State) (x : List Ev) (i : Nat) : (s.withAgenda x).blocked i = s.blocked i := rfl

/-! ### useFree -/

@[simp] theorem State.useFree_xg (s : State) : s.useFree.xg = s.xg := rfl
@[simp] theorem State.useFree_sg (s : State) : s.useFree.sg = s.sg := rfl
@[simp] theorem State.useFree_fe (s : State) : s.useFree.fe = s.fe := rfl
@[simp] theorem State.useFree_fd (s : State) : s.useFree.fd = s.fd := rfl
@[simp] theorem State.useFree_he (s : State) : s.useFree.he = s.he := rfl
@[simp] theorem State.useFree_hd (s : State) : s.useFree.hd = s.hd := rfl
@[simp] theorem State.useFree_ma (s : State) : s.useFree.ma = s.ma := rfl
@[simp] theorem State.useFree_line (s : State) : s.useFree.line = s.line := rfl
@[simp] theorem State.useFree_now (s : State) : s.useFree.now = s.now := rfl
@[simp] theorem State.useFree_bridge (s : State) : s.useFree.bridge = s.bridge := rfl
@[simp] theorem State.useFree_wd (s : State) : s.useFree.wd = s.wd := rfl
@[simp] theorem State.useFree_host (s : State) : s.useFree.host = s.host := rfl
@[simp] theorem State.useFree_cmds (s : State) : s.useFree.cmds = s.cmds := rfl
@[simp] theorem State.useFree_agenda (s : State) : s.useFree.agenda = s.agenda := rfl
@[simp] theorem State.useFree_freeCtr (s : State) : s.useFree.freeCtr = s.freeCtr + 1 := rfl
@[simp] theorem State.useFree_reqOf (s : State) (i : Nat) : s.useFree.reqOf i = s.reqOf i := rfl
@[simp] theorem State.useFree_resOf (s : State) (i : Nat) : s.useFree.resOf i = s.resOf i := rfl
@[simp] theorem State.useFree_taskOf (s : State) (i : Nat) : s.useFree.taskOf i = s.taskOf i := rfl
@[simp] theorem State.useFree_resultOf (s : State) (i : Nat) : s.useFree.resultOf i = s.resultOf i := rfl
@[simp] theorem State.useFree_blocked (s : State) (i : Nat) : s.useFree.blocked i = s.blocked i := rfl

/-! ### setTask, setResult and setService -/

@[simp] theorem State.setTask_xg (s : State) (c : Params) (i : Nat) (x : HostPc) : (s.setTask c i x).xg = s.xg := rfl
@[simp] theorem State.setTask_sg (s : State) (c : Params) (i : Nat) (x : HostPc) : (s.setTask c i x).sg = s.sg := rfl
@[simp] theorem State.setTask_fe (s : State) (c : Params) (i : Nat) (x : HostPc) : (s.setTask c i x).fe = s.fe := rfl
@[simp] theorem State.setTask_fd (s : State) (c : Params) (i : Nat) (x : HostPc) : (s.setTask c i x).fd = s.fd := rfl
@[simp] theorem State.setTask_he (s : State) (c : Params) (i : Nat) (x : HostPc) : (s.setTask c i x).he = s.he := rfl
@[simp] theorem State.setTask_hd (s : State) (c : Params) (i : Nat) (x : HostPc) : (s.setTask c i x).hd = s.hd := rfl
@[simp] theorem State.setTask_ma (s : State) (c : Params) (i : Nat) (x : HostPc) : (s.setTask c i x).ma = s.ma := rfl
@[simp] theorem State.setTask_line (s : State) (c : Params) (i : Nat) (x : HostPc) : (s.setTask c i x).line = s.line := rfl
@[simp] theorem State.setTask_now (s : State) (c : Params) (i : Nat) (x : HostPc) : (s.setTask c i x).now = s.now := rfl
@[simp] theorem State.setTask_bridge (s : State) (c : Params) (i : Nat) (x : HostPc) : (s.setTask c i x).bridge = s.bridge := rfl
@[simp] theorem State.setTask_wd (s : State) (c : Params) (i : Nat) (x : HostPc) : (s.setTask c i x).wd = s.wd := rfl
@[simp] theorem State.setTask_cmds (s : State) (c : Params) (i : Nat) (x : HostPc) : (s.setTask c i x).cmds = s.cmds := rfl
@[simp] theorem State.setTask_agenda (s : State) (c : Params) (i : Nat) (x : HostPc) : (s.setTask c i x).agenda = s.agenda := rfl
@[simp] theorem State.setTask_freeCtr (s : State) (c : Params) (i : Nat) (x : HostPc) : (s.setTask c i x).freeCtr = s.freeCtr := rfl
@[simp] theorem State.setTask_reqOf (s : State) (c : Params) (i : Nat) (x : HostPc) (j : Nat) :
    (s.setTask c i x).reqOf j = s.reqOf j := rfl
@[simp] theorem State.setTask_resOf (s : State) (c : Params) (i : Nat) (x : HostPc) (j : Nat) :
    (s.setTask c i x).resOf j = s.resOf j := rfl
@[simp] theorem State.setTask_blocked (s : State) (c : Params) (i : Nat) (x : HostPc) (j : Nat) :
    (s.setTask c i x).blocked j = s.blocked j := rfl
@[simp] theorem State.setTask_host_result (s : State) (c : Params) (i : Nat) (x : HostPc) :
    (s.setTask c i x).host.result = s.host.result := rfl
@[simp] theorem State.setTask_host_trigIrqEnable (s : State) (c : Params) (i : Nat) (x : HostPc) :
    (s.setTask c i x).host.trigIrqEnable = s.host.trigIrqEnable := rfl
@[simp] theorem State.setTask_host_edgePending (s : State) (c : Params) (i : Nat) (x : HostPc) :
    (s.setTask c i x).host.edgePending = s.host.edgePending := rfl
@[simp] theorem State.setTask_host_service (s : State) (c : Params) (i : Nat) (x : HostPc) :
    (s.setTask c i x).host.service = s.host.service := rfl
@[simp] theorem State.setTask_host_readout (s : State) (c : Params) (i : Nat) (x : HostPc) :
    (s.setTask c i x).host.readout = s.host.readout := rfl
@[simp] theorem State.setResult_xg (s : State) (i : Nat) (x : HostResult) : (s.setResult i x).xg = s.xg := rfl
@[simp] theorem State.setResult_sg (s : State) (i : Nat) (x : HostResult) : (s.setResult i x).sg = s.sg := rfl
@[simp] theorem State.setResult_fe (s : State) (i : Nat) (x : HostResult) : (s.setResult i x).fe = s.fe := rfl
@[simp] theorem State.setResult_fd (s : State) (i : Nat) (x : HostResult) : (s.setResult i x).fd = s.fd := rfl
@[simp] theorem State.setResult_he (s : State) (i : Nat) (x : HostResult) : (s.setResult i x).he = s.he := rfl
@[simp] theorem State.setResult_hd (s : State) (i : Nat) (x : HostResult) : (s.setResult i x).hd = s.hd := rfl
@[simp] theorem State.setResult_ma (s : State) (i : Nat) (x : HostResult) : (s.setResult i x).ma = s.ma := rfl
@[simp] theorem State.setResult_line (s : State) (i : Nat) (x : HostResult) : (s.setResult i x).line = s.line := rfl
@[simp] theorem State.setResult_now (s : State) (i : Nat) (x : HostResult) : (s.setResult i x).now = s.now := rfl
@[simp] theorem State.setResult_bridge (s : State) (i : Nat) (x : HostResult) : (s.setResult i x).bridge = s.bridge := rfl
@[simp] theorem State.setResult_wd (s : State) (i : Nat) (x : HostResult) : (s.setResult i x).wd = s.wd := rfl
@[simp] theorem State.setResult_cmds (s : State) (i : Nat) (x : HostResult) : (s.setResult i x).cmds = s.cmds := rfl
@[simp] theorem State.setResult_agenda (s : State) (i : Nat) (x : HostResult) : (s.setResult i x).agenda = s.agenda := rfl
@[simp] theorem State.setResult_freeCtr (s : State) (i : Nat) (x : HostResult) : (s.setResult i x).freeCtr = s.freeCtr := rfl
@[simp] theorem State.setResult_reqOf (s : State) (i : Nat) (x : HostResult) (j : Nat) :
    (s.setResult i x).reqOf j = s.reqOf j := rfl
@[simp] theorem State.setResult_resOf (s : State) (i : Nat) (x : HostResult) (j : Nat) :
    (s.setResult i x).resOf j = s.resOf j := rfl
@[simp] theorem State.setResult_blocked (s : State) (i : Nat) (x : HostResult) (j : Nat) :
    (s.setResult i x).blocked j = s.blocked j := rfl
@[simp] theorem State.setResult_host_task (s : State) (i : Nat) (x : HostResult) :
    (s.setResult i x).host.task = s.host.task := rfl
@[simp] theorem State.setResult_host_trigIrqEnable (s : State) (i : Nat) (x : HostResult) :
    (s.setResult i x).host.trigIrqEnable = s.host.trigIrqEnable := rfl
@[simp] theorem State.setResult_host_edgePending (s : State) (i : Nat) (x : HostResult) :
    (s.setResult i x).host.edgePending = s.host.edgePending := rfl
@[simp] theorem State.setResult_host_service (s : State) (i : Nat) (x : HostResult) :
    (s.setResult i x).host.service = s.host.service := rfl
@[simp] theorem State.setResult_host_running (s : State) (i : Nat) (x : HostResult) :
    (s.setResult i x).host.running = s.host.running := rfl
@[simp] theorem State.setResult_host_readout (s : State) (i : Nat) (x : HostResult) :
    (s.setResult i x).host.readout = s.host.readout := rfl
@[simp] theorem State.setService_xg (s : State) (x : ServicePc) : (s.setService x).xg = s.xg := rfl
@[simp] theorem State.setService_sg (s : State) (x : ServicePc) : (s.setService x).sg = s.sg := rfl
@[simp] theorem State.setService_fe (s : State) (x : ServicePc) : (s.setService x).fe = s.fe := rfl
@[simp] theorem State.setService_fd (s : State) (x : ServicePc) : (s.setService x).fd = s.fd := rfl
@[simp] theorem State.setService_he (s : State) (x : ServicePc) : (s.setService x).he = s.he := rfl
@[simp] theorem State.setService_hd (s : State) (x : ServicePc) : (s.setService x).hd = s.hd := rfl
@[simp] theorem State.setService_ma (s : State) (x : ServicePc) : (s.setService x).ma = s.ma := rfl
@[simp] theorem State.setService_line (s : State) (x : ServicePc) : (s.setService x).line = s.line := rfl
@[simp] theorem State.setService_now (s : State) (x : ServicePc) : (s.setService x).now = s.now := rfl
@[simp] theorem State.setService_bridge (s : State) (x : ServicePc) : (s.setService x).bridge = s.bridge := rfl
@[simp] theorem State.setService_wd (s : State) (x : ServicePc) : (s.setService x).wd = s.wd := rfl
@[simp] theorem State.setService_cmds (s : State) (x : ServicePc) : (s.setService x).cmds = s.cmds := rfl
@[simp] theorem State.setService_agenda (s : State) (x : ServicePc) : (s.setService x).agenda = s.agenda := rfl
@[simp] theorem State.setService_freeCtr (s : State) (x : ServicePc) : (s.setService x).freeCtr = s.freeCtr := rfl
@[simp] theorem State.setService_reqOf (s : State) (x : ServicePc) (j : Nat) :
    (s.setService x).reqOf j = s.reqOf j := rfl
@[simp] theorem State.setService_resOf (s : State) (x : ServicePc) (j : Nat) :
    (s.setService x).resOf j = s.resOf j := rfl
@[simp] theorem State.setService_blocked (s : State) (x : ServicePc) (j : Nat) :
    (s.setService x).blocked j = s.blocked j := rfl
@[simp] theorem State.setService_host_task (s : State) (x : ServicePc) :
    (s.setService x).host.task = s.host.task := rfl
@[simp] theorem State.setService_host_result (s : State) (x : ServicePc) :
    (s.setService x).host.result = s.host.result := rfl
@[simp] theorem State.setService_host_trigIrqEnable (s : State) (x : ServicePc) :
    (s.setService x).host.trigIrqEnable = s.host.trigIrqEnable := rfl
@[simp] theorem State.setService_host_edgePending (s : State) (x : ServicePc) :
    (s.setService x).host.edgePending = s.host.edgePending := rfl
@[simp] theorem State.setService_host_readout (s : State) (x : ServicePc) :
    (s.setService x).host.readout = s.host.readout := rfl
@[simp] theorem State.setTask_resultOf (s : State) (c : Params) (i j : Nat) (x : HostPc) :
    (s.setTask c i x).resultOf j = s.resultOf j := rfl
@[simp] theorem State.setResult_taskOf (s : State) (i j : Nat) (x : HostResult) :
    (s.setResult i x).taskOf j = s.taskOf j := rfl
@[simp] theorem State.setService_taskOf (s : State) (x : ServicePc) (j : Nat) :
    (s.setService x).taskOf j = s.taskOf j := rfl
@[simp] theorem State.setService_resultOf (s : State) (x : ServicePc) (j : Nat) :
    (s.setService x).resultOf j = s.resultOf j := rfl
@[simp] theorem State.setTask_host_running (s : State) (c : Params) (i : Nat) (x : HostPc) :
    (s.setTask c i x).host.running = processorAfter c i x s.host.running := rfl
@[simp] theorem State.setService_host_service (s : State) (x : ServicePc) :
    (s.setService x).host.service = x := rfl
@[simp] theorem State.setService_host_running (s : State) (x : ServicePc) :
    (s.setService x).host.running = schedule .weightReply x.waits s.host.running := rfl

/-! ### Reading after writing in a table -/

/-- A table answers what was put. -/
@[simp] theorem Table.get_put_same {α : Type} (d v : α) (k : Nat) (t : Table α) : (Table.put k v t).get d k = v := by
  induction t with
  | nil => simp [Table.put, Table.get]
  | cons p t ih =>
    simp only [Table.put]
    split
    · simp [Table.get]
    · split <;> simp_all [Table.get]

/-- Putting one requester's value leaves every other's alone. -/
theorem Table.get_put_other {α : Type} (d v : α) {j k : Nat} (h : j ≠ k) (t : Table α) :
    (Table.put k v t).get d j = t.get d j := by
  induction t with
  | nil => simp [Table.put, Table.get, h]
  | cons p t ih =>
    simp only [Table.put]
    split
    · next e => subst e; simp [Table.get, h]
    · split <;> simp_all [Table.get]

/-- Both cases at once. -/
theorem Table.get_put {α : Type} (d v : α) (j k : Nat) (t : Table α) :
    (Table.put k v t).get d j = if j = k then v else t.get d j := by
  by_cases h : j = k
  · subst h; simp
  · simp [h, Table.get_put_other d v h]

@[simp] theorem State.setTask_taskOf_same (s : State) (c : Params) (i : Nat) (x : HostPc) :
    (s.setTask c i x).taskOf i = x :=
  Table.get_put_same ..

@[simp] theorem State.setResult_resultOf_same (s : State) (i : Nat) (x : HostResult) :
    (s.setResult i x).resultOf i = x :=
  Table.get_put_same ..

theorem State.setTask_taskOf (s : State) (c : Params) (i j : Nat) (x : HostPc) :
    (s.setTask c i x).taskOf j = if j = i then x else s.taskOf j :=
  Table.get_put ..

theorem State.setResult_resultOf (s : State) (i j : Nat) (x : HostResult) :
    (s.setResult i x).resultOf j = if j = i then x else s.resultOf j :=
  Table.get_put ..

end Sys2Proof.Machine
end

