-- ==== Sys2Proof/Laws/Frames.lean ====
section
/-! SUPPORT. What the audio-frame units can do (spec/41_frame_binary.md): FENC and FDEC as one equation each, and the
operations of FE and FD by their outcome. -/

namespace Sys2Proof.Machine

/-- FENC with the catalogue written out: an index above 13, a wrong number of parameters, or the Frame. -/
theorem fencFn_eq (c : Params) (sel : Nat) (p : List Byte) :
    fencFn c sel p =
      if 14 ≤ sel then .error ⟨.unknownOpcode, .sel sel⟩
      else if p.length ≠ [0, 0, 0, 0, 0, 0, 0, 0, 0, 0, 0, 1, 1, 2].getD sel 0 then
        .error ⟨.paramCount, .selCount sel p.length⟩
      else .ok (0x7E :: ((BitVec.ofNat 8 (3 + p.length) :: c.codes.getD sel 0 :: p)
        ++ [xorFold (BitVec.ofNat 8 (3 + p.length) :: c.codes.getD sel 0 :: p), 0xEF])) := by
  unfold fencFn
  split
  · next h => rw [if_pos (catEntry_none.1 h)]
  · next e h =>
    have hlt : ¬ 14 ≤ sel := fun hh => by rw [catEntry_none.2 hh] at h; cases h
    have h1 := catEntry_code c sel
    have h2 := catEntry_arity c sel
    rw [h] at h1 h2
    simp only [Option.map_some] at h1 h2
    rw [if_neg hlt, List.getD_eq_getElem?_getD, List.getD_eq_getElem?_getD, ← h1, ← h2]
    rfl

/-- The arities of R104 are at most 2. -/
theorem arity_le (sel : Nat) : [0, 0, 0, 0, 0, 0, 0, 0, 0, 0, 0, 1, 1, 2].getD sel 0 ≤ 2 := by
  by_cases h : sel < 14
  · interval_cases sel <;> decide
  · rw [List.getD_eq_default _ _ (by simpa using h)]; omega

/-- What a Frame that FENC built looks like. -/
theorem fencFn_ok {c : Params} {sel : Nat} {p f : List Byte} (h : fencFn c sel p = .ok f) :
    sel < 14 ∧ p.length = [0, 0, 0, 0, 0, 0, 0, 0, 0, 0, 0, 1, 1, 2].getD sel 0
    ∧ f = 0x7E :: ((BitVec.ofNat 8 (3 + p.length) :: c.codes.getD sel 0 :: p)
        ++ [xorFold (BitVec.ofNat 8 (3 + p.length) :: c.codes.getD sel 0 :: p), 0xEF]) := by
  rw [fencFn_eq] at h
  split at h
  · cases h
  · split at h
    · cases h
    · next h1 h2 => exact ⟨by omega, Decidable.not_not.1 h2, (Except.ok.inj h).symm⟩

/-- The length of a Frame is 5, 6 or 7 (R92). -/
theorem fencFn_length {c : Params} {sel : Nat} {p f : List Byte} (h : fencFn c sel p = .ok f) :
    f.length = 5 + p.length ∧ p.length ≤ 2 := by
  obtain ⟨-, h2, rfl⟩ := fencFn_ok h
  exact ⟨by simp; omega, h2 ▸ arity_le sel⟩

/-- FENC as an operation, when the Frame is built. -/
theorem fencOp_ok {c : Params} {sel : Nat} {p f : List Byte} (h : fencFn c sel p = .ok f) (s : State) :
    fencOp c sel p s
      = { s with fe := ⟨f ++ s.fe.fbuf.drop f.length, f.length, .noError, .frame f⟩ } := by
  simp only [fencOp, h, clearErr, memWrite_zero]
  rfl

/-- FENC as an operation, when it raises. -/
theorem fencOp_error {c : Params} {sel : Nat} {p : List Byte} {e : Err} (h : fencFn c sel p = .error e) (s : State) :
    fencOp c sel p s
      = { s with fe := ⟨freeBytes sel p, 0, e.code, .err e⟩ } := by
  simp only [fencOp, h]
  rfl

/-- FENC writes FE only (R20). -/
theorem fencOp_only (c : Params) (sel : Nat) (p : List Byte) (s : State) : OnlyFe s (fencOp c sel p s) := by
  cases h : fencFn c sel p with
  | error e => rw [fencOp_error h]; rfl
  | ok f => rw [fencOp_ok h]; rfl

/-- FDEC writes FD only (R20). -/
theorem fdecOp_only (c : Params) (r : List Byte) (s : State) : OnlyFd s (fdecOp c r s) := by
  unfold fdecOp
  split <;> rfl

/-- FPARSE writes FD only (R20). -/
theorem fparseOp_only (c : Params) (bs : List Byte) (s : State) : OnlyFd s (fparseOp c bs s) := by
  unfold fparseOp
  split <;> rfl

end Sys2Proof.Machine
end

