-- ==== Sys2Proof/Laws/HexText.lean ====
section
/-! SUPPORT. Hex text (spec/42_frame_hex.md R192, R193, R196): digits, pairs, and the operations of HE and HD by their
outcome. -/

namespace Sys2Proof.Machine

/-- A hex digit's value is below 16 (R14). -/
theorem hexval_lt {c : Byte} (h : ishex c = true) : hexval c < 16 := by
  simp only [ishex, Bool.or_eq_true, Bool.and_eq_true, decide_eq_true_eq] at h
  unfold hexval
  split
  · omega
  · split <;> omega

/-- An emitted digit is a hex digit (R14). -/
theorem ishex_hexdig (hc : HexCase) {n : Nat} (h : n < 16) : ishex (hexdig hc n) = true := by
  cases hc <;> interval_cases n <;> rfl

/-- An emitted digit has the value it was emitted for (R14). -/
theorem hexval_hexdig (hc : HexCase) {n : Nat} (h : n < 16) : hexval (hexdig hc n) = n := by
  cases hc <;> interval_cases n <;> rfl

/-- The text of HEXLIFY has two characters per byte (R192). -/
@[simp] theorem hexText_length (hc : HexCase) (bs : List Byte) : (hexText hc bs).length = 2 * bs.length := by
  induction bs with
  | nil => rfl
  | cons b bs ih => simp only [hexText, List.length_cons, ih]; omega

/-- Every character of it is a hex digit. -/
theorem hexText_ishex (hc : HexCase) (bs : List Byte) : ∀ c ∈ hexText hc bs, ishex c = true := by
  induction bs with
  | nil => simp [hexText]
  | cons b bs ih =>
    simp only [hexText, List.mem_cons]
    rintro c (rfl | rfl | h)
    · exact ishex_hexdig hc (by omega)
    · exact ishex_hexdig hc (by omega)
    · exact ih c h

/-- Reading pairs undoes HEXLIFY (R196). -/
@[simp] theorem pairBytes_hexText (hc : HexCase) (bs : List Byte) : pairBytes (hexText hc bs) = bs := by
  induction bs with
  | nil => rfl
  | cons b bs ih =>
    have hb := b.isLt
    simp only [hexText, pairBytes, ih, List.cons.injEq, and_true]
    rw [hexval_hexdig hc (by omega), hexval_hexdig hc (by omega)]
    apply BitVec.eq_of_toNat_eq
    simp only [BitVec.toNat_ofNat]
    omega

/-- UNHEX of HEXLIFY's text (R196). -/
@[simp] theorem unhexFn_hexText (hc : HexCase) (bs : List Byte) : unhexFn (hexText hc bs) = .ok bs := by
  have h : (hexText hc bs).all ishex = true := List.all_eq_true.2 (hexText_ishex hc bs)
  simp [unhexFn, h]

/-- A text that spells bytes spells the tail of them after two characters. -/
theorem Spells.tail {a b : Byte} {x : List Byte} {v : Byte} {d : List Byte} (h : Spells (a :: b :: x) (v :: d)) :
    Spells x d := by
  obtain ⟨h1, h2, h3⟩ := h
  refine ⟨by simp at h1; omega, fun c hc => h2 c (by simp [hc]), fun k hk => ?_⟩
  have := h3 (k + 1) (by simpa using hk)
  simpa [Nat.mul_add] using this

/-- Reading pairs gives the bytes a text spells (R193). -/
theorem Spells.pairBytes_eq {x d : List Byte} (h : Spells x d) : pairBytes x = d := by
  induction d generalizing x with
  | nil =>
    have := h.1
    match x with
    | [] => rfl
    | _ :: _ => simp at this
  | cons v d ih =>
    match x, h with
    | a :: b :: x, h =>
      have h3 := h.2.2 0 (by simp)
      simp only [List.getD_cons_zero, Nat.mul_zero, Nat.zero_add, List.getD_cons_succ] at h3
      simp only [pairBytes, ih h.tail, List.cons.injEq, and_true]
      apply BitVec.eq_of_toNat_eq
      have := v.isLt
      simp only [BitVec.toNat_ofNat]
      omega
    | [_], h => have := h.1; simp at this; omega
    | [], h => have := h.1; simp at this

/-- A text of an even number of hex digits spells the bytes its pairs say. -/
theorem spells_pairBytes {x : List Byte} (hl : x.length % 2 = 0) (hx : ∀ c ∈ x, ishex c = true) :
    Spells x (pairBytes x) := by
  induction x using pairBytes.induct with
  | case1 a b t ih =>
    obtain ⟨h1, h2, h3⟩ := ih (by simp at hl; omega) (fun c hc => hx c (by simp [hc]))
    refine ⟨by simp [pairBytes, h1]; omega, hx, ?_⟩
    intro k hk
    cases k with
    | zero =>
      have ha := hexval_lt (hx a (by simp))
      have hb := hexval_lt (hx b (by simp))
      simp only [pairBytes, List.getD_cons_zero, Nat.mul_zero, Nat.zero_add, List.getD_cons_succ,
        BitVec.toNat_ofNat]
      omega
    | succ k =>
      have := h3 k (by simpa [pairBytes] using hk)
      simpa [pairBytes, Nat.mul_add] using this
  | case2 t h =>
    match t, h with
    | [], _ => exact ⟨rfl, by simp, by simp [pairBytes]⟩
    | [_], _ => simp at hl
    | a :: b :: t, h => exact absurd rfl (h a b t)

/-- HEXLIFY's text spells its bytes. -/
theorem spells_hexText (hc : HexCase) (bs : List Byte) : Spells (hexText hc bs) bs := by
  have := spells_pairBytes (x := hexText hc bs) (by simp) (hexText_ishex hc bs)
  simpa using this

/-- UNHEX of a text that spells bytes. -/
theorem Spells.unhexFn_eq {x d : List Byte} (h : Spells x d) : unhexFn x = .ok d := by
  have h1 := h.1
  have h2 : x.all ishex = true := List.all_eq_true.2 h.2.1
  rw [unhexFn, if_neg (by omega), h2, h.pairBytes_eq]
  rfl

/-- UNHEX writes HD only (R20). -/
theorem unhexOp_only (t : List Byte) (s : State) : OnlyHd s (unhexOp t s) := by
  unfold unhexOp
  split <;> rfl

/-- HDEC writes HD only (R20). -/
theorem hdecOp_only (t : List Byte) (s : State) : OnlyHd s (hdecOp t s) := by
  unfold hdecOp
  split
  · rfl
  · split <;> rfl

end Sys2Proof.Machine
end

