-- ==== Sys2Proof/Laws/Memory.lean ====
section
/-! SUPPORT. Every operation on the buffers keeps `Memory.wf` (spec/10_state.md R24 to R27, R36, R39; spec/20_memory.md
R81, R82), unit by unit. -/

namespace Sys2Proof.Machine

/-! ### The form, unit by unit -/

/-- FE's part of `Memory.wf`. -/
def FEState.bufWf (x : FEState) : Prop := x.fbuf.length = 7 ∧ (x.flen = 0 ∨ x.flen = 5 ∨ x.flen = 6 ∨ x.flen = 7)

/-- FD's part. -/
def FDState.bufWf (c : Params) (x : FDState) : Prop :=
  x.rlen ≤ x.rbuf.length ∧ withinCap c.respMax x.rbuf.length = true ∧ x.par.length = 2 ∧ x.np ≤ 2
  ∧ x.sel < 14

/-- HE's part. -/
def HEState.bufWf (x : HEState) : Prop := x.hbuf.length = 8 ∧ x.htxt.length = 16

/-- HD's part. -/
def HDState.bufWf (c : Params) (x : HDState) : Prop :=
  x.tlen ≤ x.tbuf.length ∧ withinCap c.txtMax x.tbuf.length = true
  ∧ withinCap (c.txtMax.map (· / 2)) x.scratch.length = true

/-- MA's part. -/
def MAState.bufWf (c : Params) (x : MAState) : Prop :=
  x.txflen ≤ x.txf.length ∧ withinCap c.txfMax x.txf.length = true ∧ x.resplen ≤ x.resp.length
  ∧ withinCap c.respMax x.resp.length = true

/-- `Memory.wf` is the five parts. -/
theorem Memory.wf_iff (c : Params) (s : State) :
    Memory.wf c s = true ↔ s.fe.bufWf ∧ s.fd.bufWf c ∧ s.he.bufWf ∧ s.hd.bufWf c ∧ s.ma.bufWf c := by
  simp only [Memory.wf, Bool.and_eq_true, Bool.or_eq_true, beq_iff_eq, decide_eq_true_eq, FEState.bufWf, FDState.bufWf,
    HEState.bufWf, HDState.bufWf, MAState.bufWf]
  tauto

/-- Sizes are within a capacity together. -/
theorem withinCap_mono {cap : Option Nat} {m n : Nat} (h : withinCap cap n = true) (hm : m ≤ n) :
    withinCap cap m = true := by
  cases cap with
  | none => rfl
  | some k => simp only [withinCap, decide_eq_true_eq] at h ⊢; omega

/-- The larger of two sizes within a capacity is within it. -/
theorem withinCap_max {cap : Option Nat} {m n : Nat} (hm : withinCap cap m = true) (hn : withinCap cap n = true) :
    withinCap cap (max m n) = true := by
  rcases Nat.le_total m n with h | h
  · rwa [Nat.max_eq_right h]
  · rwa [Nat.max_eq_left h]

/-- What fits a buffer is within its capacity. -/
theorem withinCap_of_fits {cap : Option Nat} {x : List Byte} (h : fits cap x = true) :
    withinCap cap x.length = true := by
  cases cap with
  | none => rfl
  | some m =>
    cases x with
    | nil => simp [withinCap]
    | cons a x => simpa [fits, withinCap] using h

/-- A load into a buffer keeps the buffer within its capacity. -/
theorem withinCap_memWrite {cap : Option Nat} {buf x : List Byte} (hb : withinCap cap buf.length = true)
    (hx : withinCap cap x.length = true) : withinCap cap (memWrite buf 0 x).length = true := by
  rw [memWrite_length (Nat.zero_le _), Nat.zero_add]
  exact withinCap_max hb hx

/-! ### The operations -/

/-- FENC keeps FE's buffer. -/
theorem fencOp_bufWf (c : Params) (sel : Nat) (p : List Byte) {s : State} (h : s.fe.bufWf) :
    (fencOp c sel p s).fe.bufWf := by
  cases e : fencFn c sel p with
  | error e' => rw [fencOp_error e]; exact ⟨by simp [freeBytes, Config.frameMax], .inl rfl⟩
  | ok f =>
    have hl := fencFn_length e
    rw [fencOp_ok e]
    have := h.1
    refine ⟨by simp only [List.length_append, List.length_drop]; omega, ?_⟩
    show f.length = 0 ∨ f.length = 5 ∨ f.length = 6 ∨ f.length = 7
    omega

/-- FDEC keeps FD's buffers. -/
theorem fdecOp_bufWf {c : Params} {r : List Byte} (hr : fits c.respMax r = true) {s : State} (h : s.fd.bufWf c) :
    (fdecOp c r s).fd.bufWf c := by
  obtain ⟨h1, h2, h3, h4⟩ := h
  have hw := withinCap_memWrite h2 (withinCap_of_fits hr)
  have hl : r.length ≤ (memWrite s.fd.rbuf 0 r).length := by rw [memWrite_length (Nat.zero_le _)]; omega
  unfold fdecOp
  split <;> exact ⟨hl, hw, h3, h4⟩

/-- The parameters FPARSE finds are at most two, and it answers a catalogue index. -/
theorem fparseFn_bounds {c : Params} {bs : List Byte} {i : Nat} {cmd : Byte} {p : List Byte}
    (h : fparseFn c bs = .ok (i, cmd, p)) : p.length ≤ 2 ∧ i < 14 := by
  simp only [fparseFn] at h
  split at h; · cases h
  split at h; · cases h
  split at h; · cases h
  next hlen _ _ =>
  split at h; · cases h
  split at h; · cases h
  split at h; · cases h
  split at h; · cases h
  next hi =>
  split at h; · cases h
  simp only [Except.ok.injEq, Prod.mk.injEq] at h
  rw [← h.2.2, List.length_take, ← h.1]
  exact ⟨by omega, catIndex_lt hi⟩

/-- FPARSE keeps FD's buffers. -/
theorem fparseOp_bufWf {c : Params} {bs : List Byte} (hr : fits c.respMax bs = true) {s : State} (h : s.fd.bufWf c) :
    (fparseOp c bs s).fd.bufWf c := by
  obtain ⟨h1, h2, h3, h4⟩ := h
  have hw := withinCap_memWrite h2 (withinCap_of_fits hr)
  have hl : bs.length ≤ (memWrite s.fd.rbuf 0 bs).length := by rw [memWrite_length (Nat.zero_le _)]; omega
  cases e : fparseFn c bs with
  | error e' => simp only [fparseOp, e]; exact ⟨hl, hw, h3, h4⟩
  | ok v =>
    obtain ⟨i, cmd, p⟩ := v
    have hp := fparseFn_bounds e
    simp only [fparseOp, e]
    refine ⟨hl, hw, ?_, hp⟩
    show (memWrite s.fd.par 0 p).length = 2
    rw [memWrite_length (Nat.zero_le _)]
    omega

/-- HEXLIFY keeps HE's buffers. -/
theorem hexlifyOp_bufWf (c : Params) (bs : List Byte) {s : State} (h : s.he.bufWf) : (hexlifyOp c bs s).he.bufWf := h

/-- HENC keeps HE's buffers. -/
theorem hencOp_bufWf (c : Params) (w : Word32) {s : State} (h : s.he.bufWf) : (hencOp c w s).he.bufWf := by
  obtain ⟨h1, h2⟩ := h
  have hl : (hencBytes w).length = 8 := rfl
  refine ⟨?_, ?_⟩
  · show (memWrite s.he.hbuf 0 (hencBytes w)).length = 8
    rw [memWrite_length (Nat.zero_le _)]
    omega
  · show (memWrite s.he.htxt 0 (hexText c.hexCase (hencBytes w))).length = 16
    rw [memWrite_length (Nat.zero_le _), hexText_length]
    omega

/-- The bytes of a text that fits `TBUF` fit the scratch buffer. -/
theorem scratch_fits {c : Params} {t d : List Byte} (ht : fits c.txtMax t = true) (hd : unhexFn t = .ok d) :
    withinCap (c.txtMax.map (· / 2)) d.length = true := by
  have hw := withinCap_of_fits ht
  unfold unhexFn at hd
  split at hd; · cases hd
  split at hd; · cases hd
  next h1 h2 =>
  obtain rfl := Except.ok.inj hd
  have := (spells_pairBytes (x := t) (by omega) (by simpa using h2)).1
  cases hc : c.txtMax with
  | none => rfl
  | some m => rw [hc] at hw; simp only [withinCap, Option.map_some, decide_eq_true_eq] at hw ⊢; omega

/-- UNHEX keeps HD's buffers. -/
theorem unhexOp_bufWf {c : Params} {t : List Byte} (ht : fits c.txtMax t = true) {s : State} (h : s.hd.bufWf c) :
    (unhexOp t s).hd.bufWf c := by
  obtain ⟨h1, h2, h3⟩ := h
  have hw := withinCap_memWrite h2 (withinCap_of_fits ht)
  have hl : t.length ≤ (memWrite s.hd.tbuf 0 t).length := by rw [memWrite_length (Nat.zero_le _)]; omega
  cases e : unhexFn t with
  | error e' => simp only [unhexOp, e]; exact ⟨hl, hw, h3⟩
  | ok d =>
    simp only [unhexOp, e]
    exact ⟨hl, hw, withinCap_memWrite h3 (scratch_fits ht e)⟩

/-- HDEC keeps HD's buffers. -/
theorem hdecOp_bufWf {c : Params} {t : List Byte} (ht : fits c.txtMax t = true) {s : State} (h : s.hd.bufWf c) :
    (hdecOp t s).hd.bufWf c := by
  obtain ⟨h1, h2, h3⟩ := h
  have hw := withinCap_memWrite h2 (withinCap_of_fits ht)
  have hl : t.length ≤ (memWrite s.hd.tbuf 0 t).length := by rw [memWrite_length (Nat.zero_le _)]; omega
  cases e : unhexFn t with
  | error e' => simp only [hdecOp, e]; exact ⟨hl, hw, h3⟩
  | ok d =>
    have hs := withinCap_memWrite h3 (scratch_fits ht e)
    simp only [hdecOp, e]
    split
    · exact ⟨hl, hw, h3⟩
    · exact ⟨hl, hw, hs⟩

/-- The grant keeps MA's buffers. -/
theorem grantStep_bufWf {c : Params} {i : Nat} {s : State} (hf : withinCap c.txfMax (s.reqOf i).frame.length = true)
    (h : s.ma.bufWf c) : (grantStep i s).ma.bufWf c := by
  obtain ⟨h1, h2, h3, h4⟩ := h
  unfold grantStep
  split
  · have e := memWrite_length (buf := s.ma.txf) (v := (s.reqOf i).frame) (Nat.zero_le _)
    refine ⟨?_, ?_, h3, h4⟩
    · show (s.reqOf i).frame.length ≤ (memWrite s.ma.txf 0 (s.reqOf i).frame).length
      omega
    · exact withinCap_memWrite h2 hf
  · exact ⟨h1, h2, h3, h4⟩

/-- One received byte keeps MA's buffers (R231, R234). -/
theorem takeByte_bufWf {c : Params} (b : Byte) (rest : List Byte) {s : State} (h : s.ma.bufWf c) :
    (takeByte c b rest s).ma.bufWf c := by
  obtain ⟨h1, h2, h3, h4⟩ := h
  unfold takeByte
  split
  · next hr =>
    have e := memWrite_length (buf := s.ma.resp) (v := [b]) h3
    refine ⟨h1, h2, ?_, ?_⟩
    · show s.ma.resplen + 1 ≤ (memWrite s.ma.resp s.ma.resplen [b]).length
      simp only [List.length_cons, List.length_nil] at e
      omega
    · show withinCap c.respMax (memWrite s.ma.resp s.ma.resplen [b]).length = true
      rw [e]
      refine withinCap_max h4 ?_
      cases hm : c.respMax with
      | none => rfl
      | some m =>
        have hlt : s.ma.resplen < m := by simpa [respHasRoom, hm] using hr
        simpa [withinCap] using hlt
  · exact ⟨h1, h2, h3, h4⟩

/-- The buffers have their form at reset, whatever operations and events are loaded. -/
theorem reset_memory_wf (c : Params) (cmds : List Byte) (agenda : List Ev) :
    Memory.wf c { State.reset with cmds := cmds, agenda := agenda } = true := by
  rw [Memory.wf_iff]
  refine ⟨⟨rfl, .inl rfl⟩, ⟨Nat.le_refl _, ?_, rfl, Nat.zero_le _, Nat.zero_lt_succ _⟩, ⟨rfl, rfl⟩, ⟨Nat.le_refl _, ?_, ?_⟩,
    Nat.le_refl _, ?_, Nat.le_refl _, ?_⟩
  · cases h : c.respMax <;> simp [withinCap, State.reset]
  · cases h : c.txtMax <;> simp [withinCap, State.reset]
  · cases h : c.txtMax <;> simp [withinCap, State.reset]
  · cases h : c.txfMax <;> simp [withinCap, State.reset]
  · cases h : c.respMax <;> simp [withinCap, State.reset]

/-- A reset of the device leaves the buffers in their form. -/
theorem deviceReset_memory_wf (c : Params) (s : State) : Memory.wf c (deviceReset c s) = true :=
  reset_memory_wf c [] []

end Sys2Proof.Machine
end

