-- ==== Sys2Proof/Laws/PerInstr.lean ====
section
/-! SUPPORT. A family of laws stated for every instruction: `TagFirst`, the first byte of an operation's encoding. For a
FENC form it is `START` (spec/30_encoding.md R91, R121); for every other row of the opcode table its low nibble is the
row's tag (R118, R121), and its high nibble is 0 except for the four pseudo-operations (log 2). -/

namespace Sys2Proof.Laws

/-- The first byte of the encoding: the low nibble of a tagged row is the table's tag, the high nibble the model's. -/
def TagFirst.byte : Instr → Byte
  | .fencPlay _ | .fencPause _ | .fencNext _ | .fencPrev _ | .fencVolup _ | .fencVoldn _ | .fencStandby _
  | .fencReset _ | .fencStop _ | .fencQstate _ | .fencQqty _ | .fencSetvol _ | .fencSetloop _ | .fencSeltrk _ => 0x7E
  | .xorsum _ => 0x00
  | .addsum _ => 0x01
  | .verify _ _ _ => 0x02
  | .fenc _ _ => 0x03
  | .fparse _ => 0x04
  | .fdec _ => 0x05
  | .hexlify _ => 0x06
  | .unhex _ => 0x07
  | .henc _ => 0x08
  | .hdec _ => 0x09
  | .xfer _ _ _ => 0x0A
  | .getstate _ _ => 0x0B
  | .randomplay _ _ _ => 0x0C
  | .trigger => 0x0D
  | .wserve => 0x0E
  | .wdfeed => 0x0F
  | .fencSeltrk16 _ => 0x13
  | .xverify _ _ => 0x12
  | .averify _ _ => 0x22
  | .cmd _ _ _ _ => 0x23

/-- The encoding begins with that byte. -/
def TagFirst.Statement (i : Instr) : Prop := (encode i).head? = some (TagFirst.byte i)

theorem TagFirst.fencPlay (p : List Byte) : TagFirst.Statement (.fencPlay p) := rfl
theorem TagFirst.fencPause (p : List Byte) : TagFirst.Statement (.fencPause p) := rfl
theorem TagFirst.fencNext (p : List Byte) : TagFirst.Statement (.fencNext p) := rfl
theorem TagFirst.fencPrev (p : List Byte) : TagFirst.Statement (.fencPrev p) := rfl
theorem TagFirst.fencVolup (p : List Byte) : TagFirst.Statement (.fencVolup p) := rfl
theorem TagFirst.fencVoldn (p : List Byte) : TagFirst.Statement (.fencVoldn p) := rfl
theorem TagFirst.fencStandby (p : List Byte) : TagFirst.Statement (.fencStandby p) := rfl
theorem TagFirst.fencReset (p : List Byte) : TagFirst.Statement (.fencReset p) := rfl
theorem TagFirst.fencStop (p : List Byte) : TagFirst.Statement (.fencStop p) := rfl
theorem TagFirst.fencQstate (p : List Byte) : TagFirst.Statement (.fencQstate p) := rfl
theorem TagFirst.fencQqty (p : List Byte) : TagFirst.Statement (.fencQqty p) := rfl
theorem TagFirst.fencSetvol (p : List Byte) : TagFirst.Statement (.fencSetvol p) := rfl
theorem TagFirst.fencSetloop (p : List Byte) : TagFirst.Statement (.fencSetloop p) := rfl
theorem TagFirst.fencSeltrk (p : List Byte) : TagFirst.Statement (.fencSeltrk p) := rfl
theorem TagFirst.xorsum (s : List Byte) : TagFirst.Statement (.xorsum s) := rfl
theorem TagFirst.addsum (s : List Byte) : TagFirst.Statement (.addsum s) := rfl
theorem TagFirst.verify (g : Bool) (s : List Byte) (k : Byte) : TagFirst.Statement (.verify g s k) := rfl
theorem TagFirst.fenc (o : BitVec 4) (p : List Byte) : TagFirst.Statement (.fenc o p) := rfl
theorem TagFirst.fparse (s : List Byte) : TagFirst.Statement (.fparse s) := rfl
theorem TagFirst.fdec (r : List Byte) : TagFirst.Statement (.fdec r) := rfl
theorem TagFirst.hexlify (s : List Byte) : TagFirst.Statement (.hexlify s) := rfl
theorem TagFirst.unhex (t : List Byte) : TagFirst.Statement (.unhex t) := rfl
theorem TagFirst.henc (w : Word32) : TagFirst.Statement (.henc w) := rfl
theorem TagFirst.hdec (t : List Byte) : TagFirst.Statement (.hdec t) := rfl
theorem TagFirst.xfer (i : Nat) (f : List Byte) (t : Nat) : TagFirst.Statement (.xfer i f t) := rfl
theorem TagFirst.getstate (i : Nat) (t : Nat) : TagFirst.Statement (.getstate i t) := rfl
theorem TagFirst.randomplay (i : Nat) (t : Nat) (n : BitVec 16) : TagFirst.Statement (.randomplay i t n) := rfl
theorem TagFirst.trigger : TagFirst.Statement (.trigger) := rfl
theorem TagFirst.wserve : TagFirst.Statement (.wserve) := rfl
theorem TagFirst.wdfeed : TagFirst.Statement (.wdfeed) := rfl
theorem TagFirst.fencSeltrk16 (n : BitVec 16) : TagFirst.Statement (.fencSeltrk16 n) := rfl
theorem TagFirst.xverify (s : List Byte) (k : Byte) : TagFirst.Statement (.xverify s k) := rfl
theorem TagFirst.averify (s : List Byte) (k : Byte) : TagFirst.Statement (.averify s k) := rfl
theorem TagFirst.cmd (r : Nat) (o : BitVec 4) (p : List Byte) (t : Nat) : TagFirst.Statement (.cmd r o p t) := rfl

end Sys2Proof.Laws
end

