-- ==== Sys2Proof/Laws/Tables.lean ====
section
/-! SUPPORT. The tables of requester slots: a put keeps the one order. -/

namespace Sys2Proof.Machine

variable {α : Type}

/-- The numbers after a put are the old ones and the one put. -/
theorem Table.fst_mem_put {k : Nat} {v : α} {t : Table α} {n : Nat} (h : n ∈ (Table.put k v t).map Prod.fst) :
    n = k ∨ n ∈ t.map Prod.fst := by
  induction t with
  | nil => simpa [Table.put] using h
  | cons p t ih =>
    obtain ⟨i, w⟩ := p
    simp only [Table.put] at h
    split at h
    · simp only [List.map_cons, List.mem_cons] at h ⊢; tauto
    · split at h
      · simp only [List.map_cons, List.mem_cons] at h ⊢; tauto
      · simp only [List.map_cons, List.mem_cons] at h ⊢; tauto

theorem Table.wf_nil : Table.wf ([] : Table α) := by simp [Table.wf]

/-- A put keeps the numbers strictly rising. -/
theorem Table.wf_put {t : Table α} (h : Table.wf t) (k : Nat) (v : α) : Table.wf (Table.put k v t) := by
  induction t with
  | nil => simp [Table.put, Table.wf]
  | cons p t ih =>
    obtain ⟨i, w⟩ := p
    simp only [Table.wf, List.map_cons, List.pairwise_cons] at h
    simp only [Table.put]
    split
    · next e => subst e; simpa [Table.wf] using h
    · split
      · next hlt =>
        simp only [Table.wf, List.map_cons, List.pairwise_cons, List.mem_cons]
        refine ⟨?_, h.1, h.2⟩
        rintro n (rfl | hn)
        · exact hlt
        · exact lt_trans hlt (h.1 n hn)
      · next hne hlt =>
        simp only [Table.wf, List.map_cons, List.pairwise_cons]
        refine ⟨?_, ih h.2⟩
        intro n hn
        rcases Table.fst_mem_put hn with rfl | hn
        · omega
        · exact h.1 n hn

end Sys2Proof.Machine
end

