-- ==== Sys2Proof/Laws/Steps.lean ====
section
/-! SUPPORT. What one move of one agent can do to MA and to the audio line: every move is one of the cases of `MaMove`,
and every other law about `LOCK`, `PHASE`, the slots and the line follows from it (spec/43_bus_arbiter.md R20, R242). -/

namespace Sys2Proof.Machine

/-! ### The slots after a post and after a release -/

theorem postState_reqOf (c : Params) (i : Nat) (f : List Byte) (tmo : Nat) (s : State) (j : Nat) :
    (postState c i f tmo s).reqOf j = if j = i then ⟨true, f, ticksOperand c tmo⟩ else s.reqOf j := by
  simp [State.reqOf, postState, State.withMa, Table.get_put]

theorem postState_resOf (c : Params) (i : Nat) (f : List Byte) (tmo : Nat) (s : State) (j : Nat) :
    (postState c i f tmo s).resOf j = if j = i then { s.resOf i with valid := false } else s.resOf j := by
  simp [State.resOf, postState, State.withMa, Table.get_put]

theorem release_reqOf (r : ResSlot) (s : State) (j : Nat) :
    (release r s).reqOf j
      = if j = s.ma.owner then { s.reqOf s.ma.owner with pending := false } else s.reqOf j := by
  simp [State.reqOf, release, State.withMa, Table.get_put]

theorem release_resOf (r : ResSlot) (s : State) (j : Nat) :
    (release r s).resOf j = if j = s.ma.owner then r else s.resOf j := by
  simp [State.resOf, release, State.withMa, Table.get_put]

/-- A timeout that is a number of ticks is carried as it is. -/
theorem ticksOperand_eq {c : Params} {t : Nat} (h : t < 2 ^ c.tickW) : ticksOperand c t = t := Nat.mod_eq_of_lt h

/-- The post step answers next exactly when nothing refuses it. -/
theorem post_next {c : Params} {i : Nat} {f : List Byte} {tmo : Nat} {s t : State} (h : post c i f tmo s = .next t) :
    portExists c i = true ∧ fits c.txfMax f = true ∧ (s.reqOf i).pending = false
    ∧ t = postState c i f tmo s := by
  unfold post at h
  split at h; · cases h
  split at h; · cases h
  split at h; · cases h
  next h1 h2 h3 =>
  cases h
  exact ⟨by simpa using h1, by simpa using h3, by simpa [State.blocked] using h2, rfl⟩

/-- A post that nothing refuses is the post step. -/
theorem post_eq {c : Params} {i : Nat} {f : List Byte} {tmo : Nat} {s : State} (h1 : portExists c i = true)
    (h2 : fits c.txfMax f = true) (h3 : (s.reqOf i).pending = false) :
    post c i f tmo s = .next (postState c i f tmo s) := by
  simp [post, h1, h2, State.blocked, h3]

/-- What a requester context that is asked for a sequence has been checked for, and what it then does. -/
theorem startCall_next {c : Params} {i : Nat} {call : HostCall} {s t : State} (h : startCall c i call s = .next t) :
    portExists c i = true ∧ s.taskOf i = .idle ∧ (s.reqOf i).pending = false
    ∧ ((s.mayRun c i = true ∧ t = beginCall c i call s)
      ∨ (s.mayRun c i = false ∧ t = (s.setResult i .none).setTask c i (.ready call))) := by
  unfold startCall at h
  split at h; · cases h
  split at h; · cases h
  next h1 h2 =>
  simp only [State.ctxFree, State.blocked, Bool.not_eq_true', Bool.and_eq_false_iff, decide_eq_false_iff_not,
    Bool.not_eq_false', not_or, not_not, Bool.not_eq_true] at h1 h2
  refine ⟨by simpa using h1, h2.1, h2.2, ?_⟩
  split at h
  · next hm => cases h; exact .inl ⟨hm, rfl⟩
  · next hm => cases h; exact .inr ⟨by simpa using hm, rfl⟩

/-! ### Who may take a step (R273, R276) -/

/-- A context may run: by whether it is the trigger handler's. -/
theorem State.mayRun_eq (c : Params) (i : Nat) (s : State) :
    s.mayRun c i = if i = c.trigReq then !s.wd.irqFrozen
      else decide (s.processor = none ∨ s.processor = some (.requester i)) := by
  unfold State.mayRun State.processor
  split <;> cases s.wd.irqFrozen <;> cases h : s.host.running <;> simp

/-- The trigger handler's context runs unless interrupts are frozen. -/
theorem State.mayRun_handler (c : Params) (s : State) : s.mayRun c c.trigReq = !s.wd.irqFrozen := by
  rw [State.mayRun_eq, if_pos rfl]

/-- A task runs when the processor is free or its own. -/
theorem State.mayRun_task {c : Params} {i : Nat} {s : State} (h : i ≠ c.trigReq) :
    s.mayRun c i = true ↔ s.processor = none ∨ s.processor = some (.requester i) := by
  rw [State.mayRun_eq, if_neg h, decide_eq_true_eq]

/-- The task that has the processor is one that has not come to a wait point of its sequence. -/
theorem State.running_of_processor {s : State} {x : HostTask} (h : s.processor = some x) : s.host.running = some x := by
  unfold State.processor at h
  split at h
  · cases h
  · next e => cases h; exact e
  · next e => split at h <;> cases h; exact e

/-- A context that may run and is not blocked takes its sequence's next step. -/
theorem hostStep_of_mayRun {c : Params} {i : Nat} {s : State} (h : s.mayRun c i = true)
    (hp : (s.reqOf i).pending = false) : hostStep c i s = contextStep c i s :=
  if_pos (by rw [h, State.blocked, hp]; rfl)

/-- A context that may not run, or is blocked, takes none. -/
theorem hostStep_waits {c : Params} {i : Nat} {s : State} (h : s.mayRun c i = false ∨ (s.reqOf i).pending = true) :
    hostStep c i s = .next s :=
  if_neg (by rcases h with h | h <;> simp [h, State.blocked])

/-! ### The moves -/

/-- What a move can do to MA and to the audio line. -/
inductive MaMove (c : Params) (e : Ev) (s t : State) : Prop where
  /-- neither is touched -/
  | none (hm : t.ma = s.ma) (hl : t.line = s.line)
  /-- the environment moves the line (R42, R43, R45) -/
  | peer (b : Byte) (he : e = .peer b) (ht : t = peerStep b s)
  | serialise (he : e = .serialise) (ht : t = serialiseStep s)
  | flags (hm : t.ma = s.ma) (h1 : t.line.rxfifo = s.line.rxfifo) (h2 : t.line.txq = s.line.txq)
      (h3 : t.line.wire = s.line.wire)
  /-- a requester posts (R223) -/
  | post (i : Nat) (f : List Byte) (tmo : Nat) (hp : portExists c i = true) (hf : fits c.txfMax f = true)
      (hn : (s.reqOf i).pending = false) (hm : t.ma = (postState c i f tmo s).ma) (hl : t.line = s.line)
  /-- MA grants (R227) -/
  | grant (i : Nat) (he : e = .grant i) (ht : t = grantStep i s)
  /-- MA takes the step of its phase (R228 to R235) -/
  | phase (he : e = .ma) (ht : maStep c s = .next t)
  /-- MA aborts (R236) -/
  | abort (he : e = .abort) (ht : t = abortStep s)
  /-- the device is reset (R320) -/
  | reset (he : resetsDevice c e s = true) (hm : t.ma = State.reset.ma) (hr : t.line.rxfifo = [])
      (hq : t.line.txq = [])

theorem fencOp_ma (c : Params) (sel : Nat) (p : List Byte) (s : State) : (fencOp c sel p s).ma = s.ma := by
  rw [fencOp_only]

theorem fencOp_line (c : Params) (sel : Nat) (p : List Byte) (s : State) : (fencOp c sel p s).line = s.line := by
  rw [fencOp_only]

/-- FENC inside a sequence touches neither MA nor the line. -/
theorem buildStep_ma (c : Params) (trig : Bool) (i sel : Nat) (p : List Byte) (pc : List Byte → HostPc) (s : State) :
    (buildStep c trig i sel p pc s).ma = s.ma ∧ (buildStep c trig i sel p pc s).line = s.line := by
  have h1 := fencOp_ma c sel p s
  have h2 := fencOp_line c sel p s
  unfold buildStep
  split <;> exact ⟨h1, h2⟩

/-- The first step of a sequence touches neither MA nor the line. -/
theorem beginCall_ma (c : Params) (i : Nat) (call : HostCall) (s : State) :
    (beginCall c i call s).ma = s.ma ∧ (beginCall c i call s).line = s.line := by
  cases call <;> exact buildStep_ma ..

/-- Taking the trigger interrupt touches neither MA nor the line. -/
theorem takeTrigger_ma (c : Params) (s : State) :
    (takeTrigger c s).ma = s.ma ∧ (takeTrigger c s).line = s.line := by
  unfold takeTrigger
  split
  · exact buildStep_ma ..
  · exact ⟨rfl, rfl⟩

/-- An edge touches neither MA nor the line. -/
theorem edgeArrives_ma (s : State) : (edgeArrives s).ma = s.ma ∧ (edgeArrives s).line = s.line := by
  unfold edgeArrives
  split <;> exact ⟨rfl, rfl⟩

/-- A step of WeightReplyService touches neither MA nor the line. -/
theorem serviceStep_ma {c : Params} {s t : State} (h : serviceStep c s = .next t) : t.ma = s.ma ∧ t.line = s.line := by
  unfold serviceStep at h
  split at h
  · unfold serviceBody at h
    split at h
    · cases h; exact ⟨rfl, rfl⟩
    · cases h; unfold readBurst; split <;> exact ⟨rfl, rfl⟩
    · cases h; exact ⟨rfl, rfl⟩
    · next x _ =>
      split at h
      · cases h; rw [hdecOp_only x s]; exact ⟨rfl, rfl⟩
      · cases h
    · cases h; exact ⟨rfl, rfl⟩
    · cases h; exact ⟨rfl, rfl⟩
    · cases h; exact ⟨rfl, rfl⟩
  · cases h; exact ⟨rfl, rfl⟩

/-- Starting WeightReplyService touches neither MA nor the line. -/
theorem startService_ma (s : State) : (startService s).ma = s.ma ∧ (startService s).line = s.line := by
  unfold startService
  split <;> exact ⟨rfl, rfl⟩

/-- The end of XFER in a sequence touches neither MA nor the line, if what follows it does not. -/
theorem replyStep_ma {c : Params} {i : Nat} {k : Except Err Reply → State → State} {s t : State}
    (hk : ∀ y u, (k y u).ma = u.ma ∧ (k y u).line = u.line) (h : replyStep c i k s = .next t) :
    t.ma = s.ma ∧ t.line = s.line := by
  unfold replyStep at h
  split at h
  · cases h; exact ⟨rfl, rfl⟩
  · split at h
    · cases h; exact hk _ _
    · split at h
      · cases h
        have ho := fdecOp_only c (s.resOf i).bytes s
        refine ⟨(hk _ _).1.trans ?_, (hk _ _).2.trans ?_⟩ <;> rw [ho]
      · cases h

theorem stateEnd_ma (c : Params) (trig : Bool) (i tmo : Nat) (y : Except Err Reply) (s : State) :
    (stateEnd c trig i tmo y s).ma = s.ma ∧ (stateEnd c trig i tmo y s).line = s.line := by
  unfold stateEnd
  split
  · exact ⟨rfl, rfl⟩
  · split <;> exact ⟨rfl, rfl⟩

theorem quantityEnd_ma (c : Params) (trig : Bool) (i tmo n : Nat) (y : Except Err Reply) (s : State) :
    (quantityEnd c trig i tmo n y s).ma = s.ma ∧ (quantityEnd c trig i tmo n y s).line = s.line := by
  unfold quantityEnd
  split <;> exact ⟨rfl, rfl⟩

/-- XFER in a sequence: the context posts. -/
theorem postStep_next {c : Params} {i : Nat} {f : List Byte} {tmo : Nat} {pc : HostPc} {s t : State}
    (h : postStep c i f tmo pc s = .next t) :
    portExists c i = true ∧ fits c.txfMax f = true ∧ (s.reqOf i).pending = false
      ∧ t = (postState c i f tmo s).setTask c i pc := by
  unfold postStep at h
  split at h
  · next hp =>
    cases h
    obtain ⟨h1, h2, h3, rfl⟩ := post_next hp
    exact ⟨h1, h2, h3, rfl⟩
  · cases h
  · cases h

/-- A context's step posts, or touches neither MA nor the line. -/
theorem hostStep_move {c : Params} {e : Ev} {i : Nat} {s t : State} (h : hostStep c i s = .next t) :
    MaMove c e s t := by
  have hpost : ∀ {f tmo pc}, postStep c i f tmo pc s = .next t → MaMove c e s t := by
    intro f tmo pc h
    obtain ⟨h1, h2, h3, rfl⟩ := postStep_next h
    exact .post i f tmo h1 h2 h3 rfl rfl
  have hrep : ∀ {k : Except Err Reply → State → State}, (∀ y u, (k y u).ma = u.ma ∧ (k y u).line = u.line) →
      replyStep c i k s = .next t → MaMove c e s t := by
    intro k hk h
    have := replyStep_ma hk h
    exact .none this.1 this.2
  unfold hostStep at h
  split at h; rotate_left
  · cases h; exact .none rfl rfl
  unfold contextStep at h
  split at h
  · cases h; exact .none rfl rfl
  · cases h; exact .none (beginCall_ma ..).1 (beginCall_ma ..).2
  · exact hpost h
  · refine hrep ?_ h; exact fun _ _ => ⟨rfl, rfl⟩
  · exact hpost h
  · exact hrep (stateEnd_ma _ _ _ _) h
  · cases h; exact .none (buildStep_ma ..).1 (buildStep_ma ..).2
  · exact hpost h
  · exact hrep (quantityEnd_ma _ _ _ _ _) h
  · cases h; exact .none (buildStep_ma ..).1 (buildStep_ma ..).2
  · exact hpost h
  · refine hrep ?_ h; exact fun _ _ => ⟨rfl, rfl⟩
  · cases h; exact .none rfl rfl

/-- An operation posts, or touches neither MA nor the line. -/
theorem exec_move {e : Ev} {i : Instr} {s t : State} (h : exec i s = .next t) : MaMove Config.params e s t := by
  have hfe : ∀ {sel p}, Host.Outcome.next (fencOp Config.params sel p s) = (.next t : Result) →
      MaMove Config.params e s t := by
    intro sel p h; cases h; exact .none (fencOp_ma ..) (fencOp_line ..)
  have hcall : ∀ {j call}, startCall Config.params j call s = .next t → MaMove Config.params e s t := by
    intro j call h
    obtain ⟨-, -, -, ⟨-, rfl⟩ | ⟨-, rfl⟩⟩ := startCall_next h
    · exact .none (beginCall_ma ..).1 (beginCall_ma ..).2
    · exact .none rfl rfl
  cases i
  case xorsum bs => cases h; exact .none rfl rfl
  case addsum bs => cases h; exact .none rfl rfl
  case verify g bs k => cases h; cases g <;> exact .none rfl rfl
  case xverify bs k => cases h; exact .none rfl rfl
  case averify bs k => cases h; exact .none rfl rfl
  case fparse bs =>
    simp only [exec, execFparse] at h; split at h
    · cases h; rw [fparseOp_only]; exact .none rfl rfl
    · cases h
  case fdec bs =>
    simp only [exec, execFdec] at h; split at h
    · cases h; rw [fdecOp_only]; exact .none rfl rfl
    · cases h
  case unhex x =>
    simp only [exec, execUnhex] at h; split at h
    · cases h; rw [unhexOp_only]; exact .none rfl rfl
    · cases h
  case hdec x =>
    simp only [exec, execHdec] at h; split at h
    · cases h; rw [hdecOp_only]; exact .none rfl rfl
    · cases h
  case hexlify bs => cases h; exact .none rfl rfl
  case henc w => cases h; exact .none rfl rfl
  case xfer i f tmo =>
    obtain ⟨h1, h2, h3, rfl⟩ := post_next h
    exact .post i f tmo h1 h2 h3 rfl rfl
  case getstate i tmo => exact hcall h
  case randomplay i tmo n => exact hcall h
  case cmd r op p tmo => exact hcall h
  case trigger =>
    cases h
    have h1 := takeTrigger_ma Config.params (edgeArrives s)
    have h2 := edgeArrives_ma s
    exact .none (h1.1.trans h2.1) (h1.2.trans h2.2)
  case wserve =>
    have h1 := serviceStep_ma (s := startService s) h
    have h2 := startService_ma s
    exact .none (h1.1.trans h2.1) (h1.2.trans h2.2)
  case wdfeed => cases h; split <;> exact .none rfl rfl
  all_goals exact hfe h

/-- What presenting an operation can do: nothing, or the operation. -/
theorem issueOp_next {who : Option Nat} {s t : State} (h : issueOp who s = .next t) :
    t = s ∨ ∃ i rest, s.mayPresent who = true ∧ ownPort who i = true ∧ inOrder who i s = true
      ∧ decode s.cmds = .ok (i, rest) ∧ exec i (s.withCmds rest) = .next t := by
  unfold issueOp at h
  split at h
  · cases h; exact .inl rfl
  · next hp =>
    simp only [Bool.or_eq_true, Bool.not_eq_true', not_or, Bool.not_eq_false] at hp
    split at h
    · next i rest hd =>
      split at h; · cases h
      next ho =>
      split at h
      · next hs => exact .inr ⟨i, rest, hp.2, by simpa using ho, hs, hd, h⟩
      · cases h; exact .inl rfl
    · cases h

/-- Every move is one of the cases of `MaMove`. -/
theorem runEvent_move {e : Ev} {s t : State} (h : runEvent e s = .next t) : MaMove Config.params e s t := by
  unfold runEvent at h
  split at h
  · next who =>
    rcases issueOp_next h with rfl | ⟨i, rest, -, -, -, -, h⟩
    · exact .none rfl rfl
    · cases exec_move (e := .op who) h with
      | none hm hl => exact .none hm hl
      | peer b he ht => cases he
      | serialise he ht => cases he
      | flags hm h1 h2 h3 => exact .flags hm h1 h2 h3
      | post i f tmo hp hf hn hm hl => exact .post i f tmo hp hf hn hm hl
      | grant i he ht => cases he
      | phase he ht => cases he
      | abort he ht => cases he
      | reset he hm hr hq => cases he
  · next hne =>
    clear hne
    cases e <;> simp only [agentStep] at h
    case op who => cases h; exact .none rfl rfl
    case hostStep i => exact hostStep_move h
    case grant i => cases h; exact .grant i rfl rfl
    case ma => exact .phase rfl h
    case abort => cases h; exact .abort rfl rfl
    case tick =>
      cases h
      by_cases hx : wdExpired Config.params (wdTick Config.params s.wd) = true
      · have : tickStep Config.params s = deviceReset Config.params
            ((s.withNow ((s.now + 1) % 2 ^ Config.params.tickW)).withWd (wdTick Config.params s.wd)) := if_pos hx
        rw [this]
        exact .reset hx rfl rfl rfl
      · have : tickStep Config.params s
            = (s.withNow ((s.now + 1) % 2 ^ Config.params.tickW)).withWd (wdTick Config.params s.wd) := if_neg hx
        rw [this]
        exact .none rfl rfl
    case peer b => cases h; exact .peer b rfl rfl
    case serialise => cases h; exact .serialise rfl rfl
    case txReady b => cases h; exact .flags rfl rfl rfl rfl
    case ioFault b => cases h; exact .flags rfl rfl rfl rfl
    case xgMicro m => cases h; exact .none rfl rfl
    case sgMicro m => cases h; exact .none rfl rfl
    case portRead who r =>
      unfold portReadStep at h
      split at h
      · cases h; exact .none rfl rfl
      · split at h; · cases h
        split at h
        · cases h; exact .none rfl rfl
        · cases h
    case bridgeBurst bs => cases h; unfold bridgeStep; split <;> exact .none rfl rfl
    case serve => have := serviceStep_ma h; exact .none this.1 this.2
    case edge => cases h; exact .none (edgeArrives_ma s).1 (edgeArrives_ma s).2
    case takeIrq => cases h; exact .none (takeTrigger_ma _ s).1 (takeTrigger_ma _ s).2
    case armWatchdog => cases h; exact .none rfl rfl
    case irqFreeze b => cases h; exact .none rfl rfl
    case reset => cases h; exact .reset rfl rfl rfl rfl

end Sys2Proof.Machine
end

