-- ==== Sys2Proof/Tests/Slice0.lean ====
section
/-! SUPPORT. The model's own tests, and for every statement with hypotheses a witness that meets them. `V<n>` are the
vectors of spec/95_test_vectors.md, `P<n>` its programs; their parameters are `Params.illustrative`. A witness is given
for `Config.params` wherever the constraints of R8 are enough; where a hypothesis needs more (two requesters, a finite
capacity, an acknowledgement that fits `RBUF`) it is given as an instance `c` that meets R8. -/

namespace Sys2Proof.Tests

open Machine

/-- The illustrative instance. -/
abbrev ill : Params := Params.illustrative

/-- Decoding of exactly these bytes under the illustrative instance. -/
def dec (bs : List Byte) : Option Instr :=
  match decodeIn ill bs with
  | .ok (i, []) => some i
  | .ok (_, _ :: _) => none
  | .error _ => none

/-- The Frame FENC builds under the illustrative instance. -/
def frame (sel : Nat) (p : List Byte) : Except Err (List Byte) := fencFn ill sel p

/-! ### WellFormed refuses -/

theorem test_wf_requester : (Instr.xfer 2 [] 0).wfIn ill = false ∧ (Instr.getstate 2 0).wfIn ill = false
    ∧ (Instr.randomplay 2 0 1).wfIn ill = false ∧ (Instr.cmd 2 0 [] 0).wfIn ill = false
    ∧ (Instr.xfer 1 [] 0).wfIn ill = true := by decide

theorem test_wf_timeout : (Instr.xfer 0 [] 4294967296).wfIn ill = false
    ∧ (Instr.getstate 1 4294967296).wfIn ill = false ∧ (Instr.randomplay 1 4294967296 1).wfIn ill = false
    ∧ (Instr.cmd 1 0 [] 4294967296).wfIn ill = false ∧ (Instr.xfer 0 [] 4294967295).wfIn ill = true := by decide

theorem test_wf_form : (∀ n ∈ [0, 252], (Instr.fencPlay (List.replicate n 0)).wfIn ill = true)
    ∧ (Instr.fencPlay (List.replicate 253 0)).wfIn ill = false
    ∧ (Instr.fencSeltrk (List.replicate 253 0)).wfIn ill = false := by
  simp only [Instr.wfIn, Params.formFits, List.length_replicate]
  decide

/-! ### Decoding of words written out from R91, R95, R118, R121 -/

theorem test_decode_zero_forms :
    dec [0x7E, 0x03, 0x01, 0x02, 0xEF] = some (.fencPlay []) ∧ dec [0x7E, 0x03, 0x02, 0x01, 0xEF] = some (.fencPause [])
    ∧ dec [0x7E, 0x03, 0x03, 0x00, 0xEF] = some (.fencNext []) ∧ dec [0x7E, 0x03, 0x04, 0x07, 0xEF] = some (.fencPrev [])
    ∧ dec [0x7E, 0x03, 0x05, 0x06, 0xEF] = some (.fencVolup [])
    ∧ dec [0x7E, 0x03, 0x06, 0x05, 0xEF] = some (.fencVoldn [])
    ∧ dec [0x7E, 0x03, 0x07, 0x04, 0xEF] = some (.fencStandby [])
    ∧ dec [0x7E, 0x03, 0x09, 0x0A, 0xEF] = some (.fencReset [])
    ∧ dec [0x7E, 0x03, 0x0E, 0x0D, 0xEF] = some (.fencStop [])
    ∧ dec [0x7E, 0x03, 0x10, 0x13, 0xEF] = some (.fencQstate [])
    ∧ dec [0x7E, 0x03, 0x15, 0x16, 0xEF] = some (.fencQqty []) := by decide

theorem test_decode_parameter_forms :
    dec [0x7E, 0x04, 0x31, 0x0F, 0x3A, 0xEF] = some (.fencSetvol [0x0F])
    ∧ dec [0x7E, 0x04, 0x33, 0x02, 0x35, 0xEF] = some (.fencSetloop [0x02])
    ∧ dec [0x7E, 0x05, 0x41, 0x01, 0x02, 0x47, 0xEF] = some (.fencSeltrk [0x01, 0x02])
    ∧ dec [0x7E, 0x04, 0x31, 0xDA, 0xEF, 0xEF] = some (.fencSetvol [0xDA]) := by decide

theorem test_decode_checksum_units :
    dec [0x00, 0x02, 0x03, 0x01] = some (.xorsum [0x03, 0x01])
    ∧ dec [0x01, 0x03, 0x01, 0x01, 0x01] = some (.addsum [0x01, 0x01, 0x01])
    ∧ dec [0x02, 0x00, 0x02, 0x03, 0x01, 0x02] = some (.verify false [0x03, 0x01] 0x02)
    ∧ dec [0x02, 0x01, 0x01, 0x05, 0x06] = some (.verify true [0x05] 0x06)
    ∧ dec [0x12, 0x03, 0x04, 0x31, 0xDA, 0xEF] = some (.xverify [0x04, 0x31, 0xDA] 0xEF)
    ∧ dec [0x22, 0x01, 0x05, 0x05] = some (.averify [0x05] 0x05) := by decide

theorem test_decode_frame_units :
    dec [0x03, 0x0B, 0x01, 0x0F] = some (.fenc 11 [0x0F]) ∧ dec [0x03, 0x0F, 0x00] = some (.fenc 15 [])
    ∧ dec [0x04, 0x05, 0x7E, 0x03, 0x01, 0x02, 0xEF] = some (.fparse [0x7E, 0x03, 0x01, 0x02, 0xEF])
    ∧ dec [0x05, 0x01, 0x33] = some (.fdec [0x33]) ∧ dec [0x06, 0x01, 0xA0] = some (.hexlify [0xA0])
    ∧ dec [0x07, 0x02, 0x61, 0x42] = some (.unhex [0x61, 0x42])
    ∧ dec [0x08, 0x41, 0x48, 0x00, 0x00] = some (.henc 0x41480000)
    ∧ dec [0x09, 0x02, 0x30, 0x30] = some (.hdec [0x30, 0x30])
    ∧ dec [0x13, 0x01, 0x02] = some (.fencSeltrk16 258) := by decide

theorem test_decode_host :
    dec [0x0A, 0x01, 0x01, 0x7E, 0xAC, 0x02] = some (.xfer 1 [0x7E] 300)
    ∧ dec [0x0B, 0x01, 0x64] = some (.getstate 1 100) ∧ dec [0x0C, 0x00, 0x64, 0x00, 0x03] = some (.randomplay 0 100 3)
    ∧ dec [0x0D] = some .trigger ∧ dec [0x0E] = some .wserve ∧ dec [0x0F] = some .wdfeed
    ∧ dec [0x23, 0x01, 0x0D, 0x02, 0x00, 0x03, 0x64] = some (.cmd 1 13 [0x00, 0x03] 100) := by decide

theorem test_decode_rejects :
    (decodeIn ill [] = .error .emptyStream) ∧ (decodeIn ill [0x10] = .error .unknownTag)
    ∧ (decodeIn ill [0x00, 0x02, 0x03] = .error .truncated) ∧ (decodeIn ill [0x03, 0x10, 0x00] = .error .fieldRange)
    ∧ (decodeIn ill [0x7E, 0x03, 0x01, 0x03, 0xEF] = .error .frameChecksum)
    ∧ (decodeIn ill [0x7E, 0x03, 0x01, 0x02, 0xEE] = .error .frameEnd)
    ∧ (decodeIn ill [0x7E, 0x02, 0x01, 0x03, 0xEF] = .error .frameLength)
    ∧ (decodeIn ill [0x7E, 0x03, 0xF0, 0xF3, 0xEF] = .error .frameCode)
    ∧ (decodeIn ill [0x0B, 0x80, 0x00, 0x00] = .error .longNumber)
    ∧ (decodeIn ill [0x0B, 0x02, 0x00] = .error .illFormed) := ⟨rfl, rfl, rfl, rfl, rfl, rfl, rfl, rfl, rfl, rfl⟩

/-! ### V10 to V13: the checksum units -/

theorem test_xorsum : xorFold [] = 0x00 ∧ xorFold [0x5A] = 0x5A ∧ xorFold [0x03, 0x01] = 0x02
    ∧ xorFold [0x04, 0x31, 0x0F] = 0x3A ∧ xorFold [0x7E, 0xEF] = 0x91 ∧ xorFold [1, 2, 3, 4, 5] = 0x01 := by decide

theorem test_addsum : addFold [] = 0x00 ∧ addFold [1, 1, 1] = 0x03 ∧ addFold [1, 1, 8, 0x41, 0x48, 0, 0] = 0x93
    ∧ addFold [0xFF, 0x01] = 0x00 ∧ addFold [0xFF, 0xFF] = 0xFE ∧ addFold [0x7E, 0xEF] = 0x6D := by decide

theorem test_verify : verifies false [3, 1] 2 = true ∧ verifies false [3, 0] 2 = false ∧ verifies false [1, 3] 2 = true
    ∧ verifies false [] 1 = false ∧ verifies true [1, 1, 1] 3 = true ∧ verifies true [1, 1, 1] 4 = false
    ∧ verifies true [2, 0, 1] 3 = true := by decide

theorem test_xorsum_state (s : State) : exec (.xorsum [0x03, 0x01]) s = .next { s with xg := ⟨0x02, .byte 0x02⟩ } := rfl

theorem test_addsum_state (s : State) : exec (.addsum [0xFF, 0x02]) s = .next { s with sg := ⟨0x01, .byte 0x01⟩ } := rfl

theorem test_xverify_p6 (s : State) :
    exec (.xverify [0x04, 0x31, 0xDA] 0xEF) s = .next { s with xg := ⟨0xEF, .bit true⟩ } := rfl

theorem test_averify (s : State) : exec (.averify [1, 1, 1] 4) s = .next { s with sg := ⟨0x03, .bit false⟩ } := rfl

theorem test_micro_v13 : microAcc (· ^^^ ·) 0x04 (.absorb 0x31) = 0x35 ∧ microAcc (· ^^^ ·) 0x3A (.clearAbsorb 0x7E) = 0x7E
    ∧ microAcc (· + ·) 0xFF (.absorb 0x02) = 0x01 ∧ microAcc (· + ·) 0x01 .read = 0x01
    ∧ microAcc (· + ·) 0x01 (.clearAbsorb 0x10) = 0x10 := by decide

/-! ### V14 to V17: FENC and FPARSE -/

theorem test_play (s : State) : exec (.fencPlay []) s = .next { s with
    fe := ⟨[0x7E, 0x03, 0x01, 0x02, 0xEF] ++ s.fe.fbuf.drop 5, 5, .noError, .frame [0x7E, 0x03, 0x01, 0x02, 0xEF]⟩ } := rfl

theorem test_setvol (s : State) : exec (.fencSetvol [0x0F]) s = .next { s with
    fe := ⟨[0x7E, 0x04, 0x31, 0x0F, 0x3A, 0xEF] ++ s.fe.fbuf.drop 6, 6, .noError,
      .frame [0x7E, 0x04, 0x31, 0x0F, 0x3A, 0xEF]⟩ } := rfl

theorem test_setvol_refuses (s : State) : ∃ t, exec (.fencSetvol []) s = .next t ∧ t.fe.flen = 0
    ∧ t.fe.err.number = 1 := ⟨_, rfl, rfl, rfl⟩

theorem test_fenc_row14 (s : State) : ∃ t, exec (.fenc 14 [0x00]) s = .next t ∧ t.fe.flen = 0 ∧ t.fe.err.number = 6 :=
  ⟨_, rfl, rfl, rfl⟩

theorem test_frames_v14 : frame 11 [0x4B] = .ok [0x7E, 0x04, 0x31, 0x4B, 0x7E, 0xEF]
    ∧ frame 11 [0xDA] = .ok [0x7E, 0x04, 0x31, 0xDA, 0xEF, 0xEF] ∧ frame 11 [0x35] = .ok [0x7E, 0x04, 0x31, 0x35, 0x00, 0xEF]
    ∧ frame 0 [0x00] = .error ⟨.paramCount, .selCount 0 1⟩ ∧ frame 15 [] = .error ⟨.unknownOpcode, .sel 15⟩ :=
  ⟨rfl, rfl, rfl, rfl, rfl⟩

theorem test_frames_v15 : frame 1 [] = .ok [0x7E, 0x03, 0x02, 0x01, 0xEF] ∧ frame 2 [] = .ok [0x7E, 0x03, 0x03, 0x00, 0xEF]
    ∧ frame 3 [] = .ok [0x7E, 0x03, 0x04, 0x07, 0xEF] ∧ frame 4 [] = .ok [0x7E, 0x03, 0x05, 0x06, 0xEF]
    ∧ frame 5 [] = .ok [0x7E, 0x03, 0x06, 0x05, 0xEF] ∧ frame 6 [] = .ok [0x7E, 0x03, 0x07, 0x04, 0xEF]
    ∧ frame 7 [] = .ok [0x7E, 0x03, 0x09, 0x0A, 0xEF] ∧ frame 8 [] = .ok [0x7E, 0x03, 0x0E, 0x0D, 0xEF]
    ∧ frame 9 [] = .ok [0x7E, 0x03, 0x10, 0x13, 0xEF] ∧ frame 10 [] = .ok [0x7E, 0x03, 0x15, 0x16, 0xEF] :=
  ⟨rfl, rfl, rfl, rfl, rfl, rfl, rfl, rfl, rfl, rfl⟩

theorem test_frames_v16 : frame 12 [0x02] = .ok [0x7E, 0x04, 0x33, 0x02, 0x35, 0xEF]
    ∧ frame 13 (split16 258) = .ok [0x7E, 0x05, 0x41, 0x01, 0x02, 0x47, 0xEF]
    ∧ frame 13 (split16 0x7EEF) = .ok [0x7E, 0x05, 0x41, 0x7E, 0xEF, 0xD5, 0xEF]
    ∧ frame 13 [0x01] = .error ⟨.paramCount, .selCount 13 1⟩ := ⟨rfl, rfl, rfl, rfl⟩

theorem test_fparse_accepts_v17 : fparseFn ill [0x7E, 0x03, 0x01, 0x02, 0xEF] = .ok (0, 0x01, [])
    ∧ fparseFn ill [0x7E, 0x04, 0x31, 0xDA, 0xEF, 0xEF] = .ok (11, 0x31, [0xDA])
    ∧ fparseFn ill [0x7E, 0x05, 0x41, 0x01, 0x02, 0x47, 0xEF] = .ok (13, 0x41, [0x01, 0x02]) := ⟨rfl, rfl, rfl⟩

/-- The code of the error a raising operation answers with. -/
def codeOf {α : Type} (x : Except Err α) : ErrCode :=
  match x with
  | .error e => e.code
  | .ok _ => .noError

theorem test_fparse_refuses_v17 : codeOf (fparseFn ill []) = .framing
    ∧ codeOf (fparseFn ill [0x7E, 0x06, 0x01, 0x00, 0x00, 0x00, 0x07, 0xEF]) = .framing
    ∧ codeOf (fparseFn ill [0x7E, 0x03, 0x01, 0x02, 0xEF, 0x00]) = .framing
    ∧ codeOf (fparseFn ill [0x7E, 0x03, 0x01, 0x03, 0xEE]) = .framing
    ∧ fparseFn ill [0x7E, 0x03, 0x01, 0x03, 0xEF] = .error ⟨.checksum, .sums 0x02 0x03⟩
    ∧ codeOf (fparseFn ill [0x7E, 0x03, 0xF0, 0xF3, 0xEF]) = .unknownOpcode
    ∧ codeOf (fparseFn ill [0x7E, 0x03, 0xF0, 0xF2, 0xEF]) = .checksum
    ∧ codeOf (fparseFn ill [0x7E, 0x04, 0x01, 0x00, 0x05, 0xEF]) = .paramCount
    ∧ codeOf (fparseFn ill [0x7E, 0x03, 0x31, 0x32, 0xEF]) = .paramCount :=
  ⟨rfl, rfl, rfl, rfl, rfl, rfl, rfl, rfl, rfl⟩

/-- P6, step 2. -/
theorem test_fparse_p6 (s : State) : (fparseOp ill [0x7E, 0x04, 0x31, 0xDA, 0xEF, 0xEF] s).fd =
    { s.fd with
      rbuf := [0x7E, 0x04, 0x31, 0xDA, 0xEF, 0xEF] ++ s.fd.rbuf.drop 6, rlen := 6, kind := .frame, sel := 11, cmd := 0x31
      np := 1, par := 0xDA :: s.fd.par.drop 1, err := .noError, out := .parsed 11 0x31 [0xDA] } := rfl

/-! ### V18: FDEC -/

theorem test_fdec_v18 : fdecFn ill [] = .error ⟨.transportTimeout, .none⟩ ∧ fdecFn ill [0x33] = .ok (.hex 3)
    ∧ fdecFn ill [0x31, 0x66] = .ok (.hex 31) ∧ fdecFn ill [0x31, 0x46] = .ok (.hex 31)
    ∧ fdecFn ill (List.replicate 10 0x46) = .ok (.hex 1099511627775) ∧ codeOf (fdecFn ill [0x30, 0x78, 0x33]) = .framing
    ∧ codeOf (fdecFn ill [0x33, 0x20]) = .framing ∧ fdecFn { ill with stripSet := [0x0D, 0x0A] } [0x33, 0x0D, 0x0A] = .ok (.hex 3)
    ∧ codeOf (fdecFn { ill with stripSet := [0x0D, 0x0A] } [0x0D, 0x0A]) = .framing :=
  ⟨rfl, rfl, rfl, rfl, rfl, rfl, rfl, rfl, rfl⟩

theorem test_fdec_ack_v18 : fdecFn ill [0x4F, 0x4B] = .ok (.ack [])
    ∧ fdecFn ill [0x4F, 0x4B, 0x30, 0x30, 0x30, 0x35] = .ok (.ack [0x30, 0x30, 0x30, 0x35])
    ∧ codeOf (fdecFn ill [0x6F, 0x6B]) = .framing ∧ codeOf (fdecFn ill [0x4F]) = .framing := ⟨rfl, rfl, rfl, rfl⟩

theorem test_fdec_empty (s : State) : ∃ t, exec (.fdec []) s = .next t ∧ t.fd.kind.number = 0 ∧ t.fd.err.number = 4 :=
  ⟨_, rfl, rfl, rfl⟩

/-! ### V19 to V21: HE and HD -/

theorem test_hexlify_v19 : hexText .lower [0x00, 0x0A, 0xA0, 0xFF] = [0x30, 0x30, 0x30, 0x61, 0x61, 0x30, 0x66, 0x66]
    ∧ hexText .upper [0x00, 0x0A, 0xA0, 0xFF] = [0x30, 0x30, 0x30, 0x41, 0x41, 0x30, 0x46, 0x46] := by decide

theorem test_unhex_v19 : unhexFn [] = .ok [] ∧ unhexFn [0x61, 0x42] = .ok [0xAB]
    ∧ unhexFn [0x30, 0x67, 0x31] = .error ⟨.framing, .odd⟩ ∧ unhexFn [0x30, 0x67] = .error ⟨.framing, .digit⟩ :=
  ⟨rfl, rfl, rfl, rfl⟩

theorem test_unhex_state (s : State) : ∃ t, exec (.unhex []) s = .next t ∧ t.hd.out = .bytes [] ∧ t.hd.tlen = 0
    ∧ t.hd.err.number = 0 := ⟨_, rfl, rfl, rfl, rfl⟩

/-- R299: on an error `HD_VERDICT` is 3, for UNHEX as for HDEC. -/
theorem test_unhex_error (s : State) : (unhexOp [0x30, 0x67, 0x31] s).hd.verdict.number = 3
    ∧ (unhexOp [0x30, 0x67, 0x31] s).hd.err.number = 3 := ⟨rfl, rfl⟩

theorem test_henc_v20 : hencBytes 0x41480000 = [1, 1, 8, 0x41, 0x48, 0x00, 0x00, 0x93]
    ∧ hencBytes 0x3DCCCCCD = [1, 1, 8, 0x3D, 0xCC, 0xCC, 0xCD, 0xAC]
    ∧ hencBytes 0xF6000000 = [1, 1, 8, 0xF6, 0x00, 0x00, 0x00, 0x00] := by decide

/-- P2, step 3. -/
theorem test_henc_p2 : (hencOp ill 0x41480000 State.reset).he.htxt
      = [0x30, 0x31, 0x30, 0x31, 0x30, 0x38, 0x34, 0x31, 0x34, 0x38, 0x30, 0x30, 0x30, 0x30, 0x39, 0x33]
    ∧ (hencOp ill 0x41480000 State.reset).he.hvalid = true := by decide

theorem test_hdec_v21 : hdecFn [0x30, 0x31, 0x30, 0x31, 0x30, 0x31, 0x30, 0x33] = .ok .readWeight
    ∧ hdecFn [0x30, 0x31, 0x30, 0x31, 0x30, 0x31, 0x30, 0x34] = .error ⟨.checksum, .sums 0x03 0x04⟩
    ∧ hdecFn [0x30, 0x31, 0x30, 0x31, 0x30, 0x32, 0x30, 0x34] = .ok .unrecognised
    ∧ hdecFn [0x30, 0x31, 0x30, 0x31] = .ok .unrecognised ∧ hdecFn [0x30, 0x30] = .ok .unrecognised
    ∧ hdecFn [0x30, 0x31] = .error ⟨.checksum, .sums 0x00 0x01⟩ ∧ hdecFn [] = .error ⟨.framing, .empty⟩
    ∧ codeOf (hdecFn [0x30, 0x31, 0x30]) = .framing := ⟨rfl, rfl, rfl, rfl, rfl, rfl, rfl, rfl⟩

/-- P2, step 2, and its variant. -/
theorem test_hdec_p2 (s : State) :
    (hdecOp [0x30, 0x31, 0x30, 0x31, 0x30, 0x31, 0x30, 0x33] s).hd.verdict.number = 1
    ∧ (hdecOp [0x30, 0x31, 0x30, 0x31, 0x30, 0x31, 0x30, 0x34] s).hd.verdict.number = 3
    ∧ (hdecOp [0x30, 0x31, 0x30, 0x31, 0x30, 0x31, 0x30, 0x34] s).hd.err.number = 2 := ⟨rfl, rfl, rfl⟩

/-! ### XFER and MA (V22 to V32, P1, P3, P5), one step each -/

/-- A transaction of requester 0 with the frame `7E 03 01 02 EF`, in a given phase. -/
def running (p : Phase) (idx tmo : Nat) (got : Bool) (resp : List Byte) (t0 tlast now : Nat) (line : LineState) : State :=
  { State.reset with
    ma := ⟨true, 0, p, [(0, ⟨true, [0x7E, 0x03, 0x01, 0x02, 0xEF], tmo⟩), (1, ⟨true, [0x58], 7⟩)], [],
      [0x7E, 0x03, 0x01, 0x02, 0xEF], 5, idx, tmo, t0, tlast, got, false, resp, resp.length⟩
    line := line
    now := now }

/-- The line with these received bytes and this transmit path. -/
def lineWith (rx tx : List Byte) : LineState := ⟨rx, tx, [], true, false⟩

/-- One receive step of a state under an instance. -/
def recvMa (c : Params) (s : State) : MAState := (receiveStep c s).ma

theorem test_post_p1 (s : State) : (postState ill 0 [0x7E, 0x03, 0x01, 0x02, 0xEF] 100 State.reset).reqOf 0
      = ⟨true, [0x7E, 0x03, 0x01, 0x02, 0xEF], 100⟩
    ∧ ((postState ill 0 [0x7E] 100 s).resOf 0).valid = false := by
  constructor
  · decide
  · rw [postState_resOf]; rfl

theorem test_grant_p1 : (grantStep 0 (postState ill 0 [0x7E, 0x03] 100 State.reset)).ma.owner = 0
    ∧ (grantStep 0 (postState ill 0 [0x7E, 0x03] 100 State.reset)).ma.lock = true
    ∧ (grantStep 0 (postState ill 0 [0x7E, 0x03] 100 State.reset)).ma.txf = [0x7E, 0x03]
    ∧ (grantStep 0 (postState ill 0 [0x7E, 0x03] 100 State.reset)).ma.phase.number = 1 := by decide

theorem test_contention_v32 : (grantStep 1 (running .recv 5 100 false [] 10 10 10 (lineWith [] []))).ma.owner = 0 := by
  decide

theorem test_drain_v29 : (drainStep (running .drain 0 100 false [] 0 0 0 (lineWith [0x58, 0x58] []))).line.rxfifo = [] := by
  decide

theorem test_push_p1 : (nextState (writeStep (running .write 1 100 false [] 0 0 0 (lineWith [] [0x7E])))).map
    (fun t => (t.line.txq, t.ma.txidx)) = some ([0x7E, 0x03], 2) := by decide

theorem test_flush_p1 : (flushStep (running .flush 5 100 true [0x33] 0 0 1006 (lineWith [0x59] []))).ma.t0 = 1006
    ∧ (flushStep (running .flush 5 100 true [0x33] 0 0 1006 (lineWith [0x59] []))).ma.resplen = 0
    ∧ (flushStep (running .flush 5 100 true [0x33] 0 0 1006 (lineWith [0x59] []))).line.rxfifo = [0x59] := by decide

theorem test_reply_v22 : (recvMa ill (running .recv 5 100 false [] 10 0 14 (lineWith [0x33] []))).tlast = 14
    ∧ (recvMa ill (running .recv 5 100 true [0x33] 10 14 16 (lineWith [] []))).phase = .recv
    ∧ ((receiveStep ill (running .recv 5 100 true [0x33] 10 14 17 (lineWith [] []))).resOf 0)
      = ⟨true, .noError, false, [0x33]⟩ := by decide

theorem test_silent_v23 : (recvMa ill (running .recv 5 100 false [] 10 0 109 (lineWith [] []))).phase = .recv
    ∧ (recvMa ill (running .recv 5 100 false [] 10 0 110 (lineWith [] []))).phase = .idle := by decide

theorem test_zero_timeout_v24 : (receiveStep ill (running .recv 5 0 false [] 10 0 10 (lineWith [0x4F, 0x4B] []))).line.rxfifo
      = [0x4F, 0x4B]
    ∧ (receiveStep ill (running .recv 5 0 false [] 10 0 10 (lineWith [0x4F, 0x4B] []))).resOf 0
      = ⟨true, .noError, false, []⟩ := by decide

theorem test_deadline_v25 :
    (receiveStep { ill with idleGap := some 10 } (running .recv 5 5 true [0x33] 10 12 15 (lineWith [0x34] []))).line.rxfifo
      = [0x34]
    ∧ (recvMa { ill with idleGap := some 10 } (running .recv 5 5 true [0x33] 10 12 15 (lineWith [0x34] []))).lock = false := by
  decide

theorem test_overflow_v28 :
    (recvMa { ill with respMax := some 4 } (running .recv 5 100 true [1, 2, 3, 4] 10 12 12 (lineWith [5] []))).ovf = true
    ∧ (recvMa { ill with respMax := some 4 } (running .recv 5 100 true [1, 2, 3, 4] 10 12 12 (lineWith [5] []))).resp
      = [1, 2, 3, 4] := by decide

theorem test_wrap_v30 :
    (recvMa ill (running .recv 5 0x20 false [] 0xFFFFFFF0 0 0x0F (lineWith [] []))).phase = .recv
    ∧ (recvMa ill (running .recv 5 0x20 false [] 0xFFFFFFF0 0 0x10 (lineWith [] []))).phase = .idle := by decide

theorem test_abort_p5 :
    ((abortStep (running .write 2 100 false [] 0 0 0 ⟨[], [], [0x7E, 0x03], true, true⟩)).resOf 0).err.number = 7
    ∧ (abortStep (running .write 2 100 false [] 0 0 0 ⟨[], [], [0x7E, 0x03], true, true⟩)).ma.lock = false
    ∧ ((abortStep (running .write 2 100 false [] 0 0 0 ⟨[], [], [0x7E, 0x03], true, true⟩)).reqOf 1).pending = true :=
  ⟨rfl, rfl, rfl⟩

/-- R223, R328: XFER posts whatever the scheduler is doing; a sequence waits for it. -/
theorem test_xfer_needs_no_processor :
    (∃ t, exec (.xfer 0 [] 1) { State.reset with host := { State.reset.host with running := some .weightReply } } = .next t
      ∧ (t.reqOf 0).pending = true)
    ∧ (nextState (startCall ill 0 (.getstate 100)
      { State.reset with host := { State.reset.host with running := some .weightReply } })).map (fun t => t.taskOf 0)
      = some (.ready (.getstate 100)) := ⟨⟨_, rfl, rfl⟩, rfl⟩

theorem test_xfer_refused_while_blocked :
    exec (.xfer 0 [] 1) (running .write 0 1 false [] 0 0 0 (lineWith [] [])) = .refused .requesterBusy := rfl

/-! ### The host sequences (V5, P4) -/

theorem test_play_state_v5 : stateResult (.ok (.hex 0)) = .ok .custom ∧ stateResult (.ok (.hex 3)) = .ok .fastForward
    ∧ stateResult (.ok (.hex 4)) = .ok .fastReverse ∧ codeOf (stateResult (.ok (.hex 5))) = .protocol
    ∧ codeOf (stateResult (.error ⟨.transportTimeout, .none⟩)) = .transportTimeout
    ∧ [PlayState.custom, .playing, .paused, .fastForward, .fastReverse].map mayPlay = [true, false, true, false, false] :=
  ⟨rfl, rfl, rfl, rfl, rfl, rfl⟩

theorem test_quantity_p4 : quantityResult (.ok (.ack [0x30, 0x30, 0x30, 0x35])) = .ok 5
    ∧ codeOf (quantityResult (.ok (.ack [0x30, 0x30, 0x30, 0x30]))) = .protocol
    ∧ codeOf (quantityResult (.ok (.ack [0x30, 0x30, 0x35]))) = .protocol
    ∧ selectResult 3 (.ok (.ack [])) = .played 3 ∧ selectResult 3 (.ok (.hex 1)) = .err ⟨.protocol, .missingAck⟩
    ∧ drawTrack 3 5 0 = 3 := ⟨rfl, rfl, rfl, rfl, rfl, rfl⟩

theorem test_getstate_begins : (buildStep ill false 1 9 [] (fun f => .gsPost false f 100) State.reset).taskOf 1
    = .gsPost false [0x7E, 0x03, 0x10, 0x13, 0xEF] 100 := rfl

theorem test_randomplay_begins : (buildStep ill false 1 10 [] (fun f => .rqPost false f 100 3) State.reset).taskOf 1
    = .rqPost false [0x7E, 0x03, 0x15, 0x16, 0xEF] 100 3 := rfl

theorem test_select_p4 : (buildStep ill true 1 13 (trackParams 3) (fun f => .rsPost true f 100 3) State.reset).taskOf 1
    = .rsPost true [0x7E, 0x05, 0x41, 0x00, 0x03, 0x47, 0xEF] 100 3 := rfl

theorem test_cmd_begins : ∃ t, exec (.cmd 0 11 [0x0F] 100) State.reset = .next t
    ∧ t.taskOf 0 = .cmdPost [0x7E, 0x04, 0x31, 0x0F, 0x3A, 0xEF] 100 ∧ t.ma = State.reset.ma := ⟨_, rfl, rfl, rfl⟩

theorem test_cmd_refuses_parameters : ∃ t, exec (.cmd 0 11 [] 100) State.reset = .next t ∧ t.taskOf 0 = .idle
    ∧ t.resultOf 0 = .err ⟨.paramCount, .selCount 11 0⟩ := ⟨_, rfl, rfl, rfl⟩

/-- R70, R120: an index that selects no row is FENC's error. -/
theorem test_cmd_row14 : ∃ t, exec (.cmd 0 14 [] 100) State.reset = .next t ∧ t.taskOf 0 = .idle
    ∧ t.resultOf 0 = .err ⟨.unknownOpcode, .sel 14⟩ := ⟨_, rfl, rfl, rfl⟩

/-- R273: a task that has built its frame keeps the service task waiting; R274: the trigger handler holds no task up. -/
theorem test_no_preemption :
    (buildStep ill false 0 9 [] (fun f => .gsPost false f 100) State.reset).serviceMayRun = false
    ∧ (buildStep ill true 1 9 [] (fun f => .gsPost true f 100) State.reset).serviceMayRun = true := by decide

theorem test_trigger_p4 : (takeTrigger ill (edgeArrives State.reset)).host.trigIrqEnable = false
    ∧ (takeTrigger ill (edgeArrives State.reset)).taskOf 1 = .gsPost true [0x7E, 0x03, 0x10, 0x13, 0xEF] 100 := ⟨rfl, rfl⟩

/-- Reset with one burst on the bridge line. -/
def bridged (b : List Byte) : State := { State.reset with bridge := ⟨[b], []⟩ }

/-- The state after `n` steps of WeightReplyService, once it is started. -/
def served (n : Nat) (s : State) : Option State :=
  n.repeat (fun o => o.bind fun t => nextState (serviceStep ill t)) (some (startService s))

theorem test_wserve_p2 : (served 6 (bridged [1, 1, 1, 3])).map (fun t => (t.hd.verdict, t.he.hvalid, t.host.service))
      = some (.readWeight, true, .atRead)
    ∧ (served 3 (bridged [1, 1, 1, 4])).map (fun t => (t.hd.verdict, t.he.hvalid, t.bridge.tx, t.host.service))
      = some (.error, false, [], .atRead) := ⟨rfl, rfl⟩

theorem test_wdfeed : ∃ t, exec .wdfeed State.reset = .next t ∧ t.wd.count = 0 := ⟨_, rfl, rfl⟩

theorem test_step_runs_fetch_word : step (State.reset.withFetchWord 8 0xF) = exec .wdfeed State.reset := rfl

theorem test_step_runs_frame_word :
    ∃ t, step (State.reset.withFetchWord 40 0xEF0201037E) = .next t ∧ t.fe.flen = 5 ∧ t.cmds = [] := ⟨_, rfl, rfl, rfl⟩

/-! ### Witnesses: the checksum and frame statements -/

theorem wit_FoldLaws : ([1, 2] : List Byte).Perm [2, 1] := by decide

theorem wit_SingleBitCorruptionDetected : verifies false [0x80] 0x80 = true ∧ verifies true [0x80] 0x80 = true
    ∧ (0 : Nat) < ([0x80] : List Byte).length ∧ (7 : Nat) < 8 := by decide

theorem wit_ParameterForms : ([0] : List Byte) ≠ [] ∧ ([] : List Byte).length ≠ 1 ∧ ([0, 0] : List Byte).length ≠ 1
    ∧ ([0] : List Byte).length ≠ 2 ∧ ([0, 0, 0] : List Byte).length ≠ 2 := by decide

theorem wit_FencBuildsOrRefuses :
    let arity := fun o : BitVec 4 => [0, 0, 0, 0, 0, 0, 0, 0, 0, 0, 0, 1, 1, 2].getD o.toNat 0
    ((0 : BitVec 4).toNat ≤ 13 ∧ ([] : List Byte).length = arity 0)
    ∧ ((13 : BitVec 4).toNat ≤ 13 ∧ ([0, 0] : List Byte).length = arity 13)
    ∧ ((13 : BitVec 4).toNat ≤ 13 ∧ ([0] : List Byte).length ≠ arity 13) ∧ 13 < (14 : BitVec 4).toNat := by decide

theorem wit_FencFrameLaws : fencFn Config.params 0 [] = .ok [0x7E, 0x03, 0x01, 0x02, 0xEF]
    ∧ fencFn Config.params 11 [0x0F] = .ok [0x7E, 0x04, 0x31, 0x0F, 0x3A, 0xEF] := ⟨rfl, rfl⟩

theorem wit_FparseInvertsFenc :
    (∀ w ∈ ([(0, []), (11, [0xDA]), (13, [1, 2])] : List (Nat × List Byte)),
      w.1 ≤ 13 ∧ w.2.length = [0, 0, 0, 0, 0, 0, 0, 0, 0, 0, 0, 1, 1, 2].getD w.1 0)
    ∧ fparseFn Config.params [0x7E, 0x04, 0x31, 0xDA, 0xEF, 0xEF] = .ok (11, 0x31, [0xDA]) := ⟨by decide, rfl⟩

/-- A sequence of at most one byte fits `RBUF`. -/
theorem fits_response {x : List Byte} (h : x.length ≤ 1) : fits Config.params.respMax x = true := by
  have := (valid_facts params_valid).2.2.2.2.2.2.2.2.2.2.2.1
  unfold fits
  split
  · simp
  · next m hm => have := this m hm; simp; omega

/-- A text of at most eight characters fits `TBUF`. -/
theorem fits_text {x : List Byte} (h : x.length ≤ 8) : fits Config.params.txtMax x = true := by
  have := (valid_facts params_valid).2.2.2.2.2.2.2.2.2.2.2.2
  unfold fits
  split
  · simp
  · next m hm => have := this m hm; simp; omega

theorem wit_FparseReportsFirstFailedCheck : fits Config.params.respMax [] = true
    ∧ fits Config.params.respMax [0x7E] = true
    ∧ ∃ c : Params, c.valid = true ∧ fits c.respMax [0x7E, 0x03, 0x01, 0x02, 0xEF] = true :=
  ⟨fits_response (by decide), fits_response (by decide), ill, illustrative_valid, rfl⟩

/-- A hex digit is not stripped, whatever `STRIP_SET` is. -/
theorem strip_digit {c : Params} (hc : c.valid = true) {b : Byte} (hb : ishex b = true) : stripBytes c.stripSet [b] = [b] := by
  have h : b ∉ c.stripSet := fun hm => by
    have := ((valid_facts hc).2.2.2.2.1 b hm).1
    simp [hb] at this
  simp [stripBytes, h]

/-- FDEC of one hex digit, whatever the parameters are. -/
theorem fdec_digit {c : Params} (hc : c.valid = true) {b : Byte} (hb : ishex b = true) :
    fdecFn c [b] = .ok (.hex (hexval b)) := by
  obtain ⟨a, ha, hx⟩ := (valid_facts hc).2.2.2.1
  have hp : c.ackPrefix.isPrefixOf [b] = false := by
    rw [Bool.eq_false_iff]
    intro h
    have := (List.isPrefixOf_iff_prefix.1 h).subset ha
    simp only [List.mem_singleton] at this
    rw [this, hb] at hx
    cases hx
  simp [fdecFn, strip_digit hc hb, hp, hb, hexNumeral]

theorem wit_FdecClassifiesReply : fits Config.params.respMax [] = true ∧ fits Config.params.respMax [0x30] = true
    ∧ stripBytes Config.params.stripSet [0x30] = [0x30] ∧ ishex 0x30 = true ∧ ishex 0x66 = true :=
  ⟨fits_response (by decide), fits_response (by decide), strip_digit params_valid rfl, rfl, rfl⟩

/-- The ACK clause, and the two ways of the last clause. -/
theorem wit_FdecClassifiesReply_other : ∃ c : Params, c.valid = true
    ∧ (∀ r ∈ ([[0x4F, 0x4B, 0x30], [0x4F], [0x0D]] : List (List Byte)), fits c.respMax r = true ∧ r ≠ [])
    ∧ stripBytes c.stripSet [0x4F, 0x4B, 0x30] = c.ackPrefix ++ [0x30]
    ∧ (¬ ∃ rest, stripBytes c.stripSet [0x4F] = c.ackPrefix ++ rest) ∧ ishex 0x4F = false
    ∧ (¬ ∃ rest, stripBytes c.stripSet [0x0D] = c.ackPrefix ++ rest) ∧ stripBytes c.stripSet [0x0D] = [] := by
  refine ⟨{ ill with stripSet := [0x0D] }, by decide, by decide, by decide, ?_, by decide, ?_, by decide⟩ <;>
    · rintro ⟨rest, h⟩
      have := congrArg List.length h
      revert this
      simp [Params.illustrative, stripBytes]
      try omega

theorem wit_ReplyShapes : (stripBytes [0x0D] [0x0D, 0x33, 0x0D, 0x34, 0x0D]).head? = some 0x33
    ∧ (stripBytes [0x0D] [0x0D, 0x33, 0x0D, 0x34, 0x0D]).getLast? = some 0x34 := by
  decide

theorem wit_UnhexReadsPairs : fits Config.params.txtMax [0x30] = true ∧ ([0x30] : List Byte).length % 2 = 1
    ∧ fits Config.params.txtMax [0x30, 0x67] = true ∧ ([0x30, 0x67] : List Byte).length % 2 = 0
    ∧ (∃ c ∈ ([0x30, 0x67] : List Byte), ishex c = false)
    ∧ fits Config.params.txtMax [0x61, 0x42] = true ∧ Spells [0x61, 0x42] [0xAB]
    ∧ fits Config.params.txtMax [] = true ∧ Spells [] [] :=
  ⟨fits_text (by decide), rfl, fits_text (by decide), rfl, ⟨0x67, by simp, rfl⟩, fits_text (by decide),
    ⟨by decide, by decide, by decide⟩, fits_text (by decide), ⟨by decide, by decide, by decide⟩⟩

theorem wit_HexTextRoundTrip : unhexFn [0x61, 0x42] = .ok [0xAB]
    ∧ (unhexFn [0x61, 0x62] = .ok [0xAB] ∧ ∀ c ∈ ([0x61, 0x62] : List Byte), hexdig .lower (hexval c) = c) :=
  ⟨rfl, rfl, by decide⟩

theorem wit_HdecChecksThenRecognises :
    (fits Config.params.txtMax [0x30] = true ∧ ([0x30] : List Byte).length % 2 = 1)
    ∧ (fits Config.params.txtMax [0x30, 0x67] = true ∧ ∃ c ∈ ([0x30, 0x67] : List Byte), ishex c = false)
    ∧ fits Config.params.txtMax [] = true
    ∧ (fits Config.params.txtMax [0x30, 0x31] = true ∧ Spells [0x30, 0x31] ([] ++ [0x01]))
    ∧ (fits Config.params.txtMax [0x30, 0x30] = true ∧ Spells [0x30, 0x30] ([] ++ [0x00]))
    ∧ (fits Config.params.txtMax [0x30, 0x31, 0x30, 0x31, 0x30, 0x31, 0x30, 0x33] = true
      ∧ Spells [0x30, 0x31, 0x30, 0x31, 0x30, 0x31, 0x30, 0x33] ([0x01, 0x01, 0x01] ++ [0x03])) :=
  ⟨⟨fits_text (by decide), rfl⟩, ⟨fits_text (by decide), 0x67, by simp, rfl⟩, fits_text (by decide),
    ⟨fits_text (by decide), ⟨by decide, by decide, by decide⟩⟩,
    ⟨fits_text (by decide), ⟨by decide, by decide, by decide⟩⟩,
    ⟨fits_text (by decide), ⟨by decide, by decide, by decide⟩⟩⟩

/-! ### Witnesses: what the units leave alone -/

theorem wit_UnitsArePrivate (s : State) : ∀ w ∈ ([(.xorsum [1], .xg), (.averify [1] 1, .sg), (.fencPlay [], .fe),
      (.fencPlay [1], .fe), (.fdec [], .fd), (.fparse [], .fd), (.henc 0, .he), (.hdec [], .hd), (.unhex [], .hd)]
      : List (Instr × PureUnit)), pureUnit w.1 = some w.2 ∧ ∃ t, exec w.1 s = .next t := by
  intro w hw
  simp only [List.mem_cons, List.not_mem_nil, or_false] at hw
  obtain rfl | rfl | rfl | rfl | rfl | rfl | rfl | rfl | rfl := hw <;> exact ⟨rfl, _, rfl⟩

theorem wit_DifferentUnitsCommute (s : State) : pureUnit (.fencPlay [1]) = some .fe ∧ pureUnit (.hdec []) = some .hd
    ∧ PureUnit.fe ≠ PureUnit.hd ∧ (∃ a, exec (.fencPlay [1]) s = .next a) ∧ ∃ b, exec (.hdec []) s = .next b :=
  ⟨rfl, rfl, by decide, ⟨_, rfl⟩, _, rfl⟩

theorem wit_PureOperationsIdempotent (s : State) :
    (∃ t, pureUnit (.fencPlay []) = some .fe ∧ exec (.fencPlay []) s = .next t ∧ t.fe.err = .noError)
    ∧ (∃ t, pureUnit (.fencPlay [1]) = some .fe ∧ exec (.fencPlay [1]) s = .next t ∧ t.fe.err = .paramCount)
    ∧ ∃ t, pureUnit (.fdec []) = some .fd ∧ exec (.fdec []) s = .next t :=
  ⟨⟨_, rfl, rfl, rfl⟩, ⟨_, rfl, rfl, rfl⟩, _, rfl, rfl⟩

/-! ### Witnesses: MA -/

/-- Requester 0 in a transaction with the one-byte frame `7E`; the lock is held in every phase but IDLE. -/
def tx (p : Phase) (idx tmo : Nat) (line : LineState) : State :=
  { State.reset with
    ma := ⟨p != .idle, 0, p, [(0, ⟨true, [0x7E], tmo⟩)], [], [0x7E], 1, idx, tmo, 0, 0, false, false, [], 0⟩
    line := line
    now := 0 }

theorem tx_reqOf (p : Phase) (idx tmo : Nat) (line : LineState) (i : Nat) :
    (tx p idx tmo line).reqOf i = if i = 0 then ⟨true, [0x7E], tmo⟩ else ReqSlot.reset := by
  simp [State.reqOf, tx, Table.get]

/-- The invariant holds of it, whatever the parameters are. -/
theorem tx_inv {c : Params} (hc : c.valid = true) {p : Phase} {idx tmo : Nat} {line : LineState} (hi : idx ≤ 1)
    (hp : p = .flush ∨ p = .recv → idx = 1) (ht : tmo ≤ 3) (hz : p = .idle → idx = 0 := by simp) : Inv c (tx p idx tmo line) := by
  obtain ⟨-, -, -, -, -, hn, hw, hx, -⟩ := valid_facts hc
  have h4 : 4 ≤ 2 ^ c.tickW := by
    calc 4 = 2 ^ 2 := rfl
      _ ≤ 2 ^ c.tickW := Nat.pow_le_pow_right (by decide) hw
  constructor
  case buffers =>
    simp [Memory.wf, tx, State.reset]
    refine ⟨⟨⟨⟨?_, ?_⟩, ?_⟩, ?_⟩, ?_⟩ <;> unfold withinCap <;> split <;> simp
    next m hm => have := hx m hm; omega
  case lock_iff => cases p <;> simp [tx]
  case owner_pending => intro _; rfl
  case pending_port =>
    intro i h
    rw [tx_reqOf] at h
    split at h
    · subst i; exact ⟨rfl, rfl⟩
    · cases h
  case slots_fit =>
    intro i
    rw [tx_reqOf]
    refine ⟨?_, ?_, ?_⟩
    · unfold withinCap; split
      · rfl
      · next m hm => have := hx m hm; split <;> simp [ReqSlot.reset]; omega
    · split <;> simp [ReqSlot.reset]; omega
    · show withinCap c.respMax 0 = true
      unfold withinCap; split <;> simp
  case index_le => exact hi
  case index_idle => exact hz
  case index_eq => intro h; exact hp h
  case ticks =>
    refine ⟨?_, ?_, ?_, ?_⟩ <;> simp only [tx] <;> omega
  case he_err => rfl
  case trigger_iff => simp [tx, State.reset, State.taskOf, Table.get, HostPc.inTrigger]
  case trigger_only => intro i h; cases h
  case in_xfer => intro i h; cases h
  case task_port => intro i h; exact absurd rfl h
  case running_task => simp [tx, State.reset, State.taskOf, Table.get, HostPc.waits, ServicePc.waits]
  case tables => simp [tx, State.reset, Table.wf]

theorem wit_XferPostsRequest : 0 < Config.params.nReq ∧ (State.reset.reqOf 0).pending = false
    ∧ (∀ m, Config.params.txfMax = some m → ([0, 0, 0, 0, 0, 0, 0] : List Byte).length ≤ m)
    ∧ 0 < 2 ^ Config.params.tickW ∧ 3 < 2 ^ Config.params.tickW := by
  obtain ⟨-, -, -, -, -, hn, hw, hx, -⟩ := valid_facts params_valid
  have h4 : 2 ^ 2 ≤ 2 ^ Config.params.tickW := Nat.pow_le_pow_right (by decide) hw
  exact ⟨by omega, rfl, hx, by omega, by omega⟩

theorem wit_PortsRefuse_blocked : ((tx .drain 0 3 (lineWith [] [])).reqOf 0).pending = true
    ∧ Config.params.hasPort 0 = true ∧ Config.params.hasPort Config.params.nReq = false := by
  have hn := (valid_facts params_valid).2.2.2.2.2.1
  refine ⟨rfl, rfl, ?_⟩
  simp [Params.hasPort]; omega

theorem wit_PortsRefuse_long : ∃ c : Params, c.valid = true ∧ c.respMax = some 7 ∧ c.txtMax = some 8 ∧ c.txfMax = some 7
    ∧ 7 < (List.replicate 8 0 : List Byte).length ∧ 8 < (List.replicate 9 0 : List Byte).length ∧ 0 < c.nReq
    ∧ (State.reset.reqOf 0).pending = false :=
  ⟨{ ill with respMax := some 7, txtMax := some 8, txfMax := some 7 }, by decide, rfl, rfl, rfl, by decide, by decide,
    by decide, rfl⟩

theorem wit_GrantTakesFreeLock : ((tx .idle 0 3 (lineWith [] [])).ma.lock = false
      ∧ ((tx .idle 0 3 (lineWith [] [])).reqOf 0).pending = true)
    ∧ (tx .drain 0 3 (lineWith [] [])).ma.lock = true ∧ (State.reset.reqOf 0).pending = false := ⟨⟨rfl, rfl⟩, rfl, rfl⟩

theorem wit_DrainAndFlushSteps : (tx .drain 0 3 (lineWith [1] [])).ma.phase = .drain
    ∧ ((tx .flush 1 3 (lineWith [] [])).ma.phase = .flush ∧ (tx .flush 1 3 (lineWith [] [])).line.txq = [])
    ∧ (tx .flush 1 3 (lineWith [] [0x7E])).ma.phase = .flush ∧ (tx .flush 1 3 (lineWith [] [0x7E])).line.txq ≠ [] :=
  ⟨rfl, ⟨rfl, rfl⟩, rfl, by simp [tx, lineWith]⟩

theorem wit_WritePushesInOrder : (∀ idx ≤ 1, ∀ line, (tx .write idx 3 line).ma.phase = .write
      ∧ Inv Config.params (tx .write idx 3 line))
    ∧ ((tx .write 0 3 (lineWith [] [])).ma.txidx < (tx .write 0 3 (lineWith [] [])).ma.txflen
      ∧ (tx .write 0 3 (lineWith [] [])).line.txReady = true ∧ (tx .write 0 3 ⟨[], [], [], false, false⟩).line.txReady = false)
    ∧ (tx .write 1 3 (lineWith [] [])).ma.txidx = (tx .write 1 3 (lineWith [] [])).ma.txflen :=
  ⟨fun _ hi _ => ⟨rfl, tx_inv params_valid hi (by simp) (by decide)⟩, ⟨by decide, rfl, rfl⟩, rfl⟩

/-- No time has passed. -/
theorem since_zero (n : Nat) : (0 + n - 0) % n = 0 := by simp

theorem wit_ReceiveTakesFirstCase :
    let s := fun tmo rx => tx .recv 1 tmo (lineWith rx [])
    (∀ tmo rx, (s tmo rx).ma.phase = .recv ∧ (s tmo rx).ma.t0 < 2 ^ Config.params.tickW
      ∧ (s tmo rx).ma.tlast < 2 ^ Config.params.tickW)
    ∧ (s 0 []).ma.tmo ≤ ((s 0 []).now + 2 ^ Config.params.tickW - (s 0 []).ma.t0) % 2 ^ Config.params.tickW
    ∧ ((∀ rx, ((s 1 rx).now + 2 ^ Config.params.tickW - (s 1 rx).ma.t0) % 2 ^ Config.params.tickW < (s 1 rx).ma.tmo)
      ∧ (s 1 [0x33]).line.rxfifo = [0x33] ∧ (∀ m, Config.params.respMax = some m → (s 1 [0x33]).ma.resplen < m)
      ∧ (s 1 []).line.rxfifo = [] ∧ (s 1 []).ma.got = false) := by
  have hr := (valid_facts params_valid).2.2.2.2.2.2.2.2.2.2.2.1
  refine ⟨fun _ _ => ⟨rfl, Nat.two_pow_pos _, Nat.two_pow_pos _⟩, Nat.zero_le _, fun rx => ?_, rfl, ?_, rfl, rfl⟩
  · exact Nat.lt_of_le_of_lt (Nat.le_of_eq (since_zero _)) (by decide : 0 < 1)
  · intro m hm; have := hr m hm; show 0 < m; omega

/-- The clause of a full buffer and the clause of data that stopped, at their boundary values. -/
theorem wit_ReceiveTakesFirstCase_other : ∃ c : Params, c.valid = true ∧ c.respMax = some 4 ∧ c.idleGap = some 3
    ∧ (let s := running .recv 5 100 true [1, 2, 3, 4] 10 12 15 (lineWith [5] [])
      s.ma.phase = .recv ∧ s.ma.t0 < 2 ^ c.tickW ∧ s.ma.tlast < 2 ^ c.tickW ∧ s.line.rxfifo = [5] ∧ 4 ≤ s.ma.resplen
      ∧ (s.now + 2 ^ c.tickW - s.ma.t0) % 2 ^ c.tickW < s.ma.tmo)
    ∧ (let s := running .recv 5 100 true [1, 2, 3, 4] 10 12 15 (lineWith [] [])
      s.ma.phase = .recv ∧ s.line.rxfifo = [] ∧ s.ma.got = true ∧ 3 ≤ (s.now + 2 ^ c.tickW - s.ma.tlast) % 2 ^ c.tickW
      ∧ (s.now + 2 ^ c.tickW - s.ma.t0) % 2 ^ c.tickW < s.ma.tmo) :=
  ⟨{ ill with respMax := some 4 }, by decide, rfl, rfl, by decide, by decide⟩

theorem wit_FinishDeliversAndReleases : (tx .recv 1 0 (lineWith [1] [])).ma.phase = .recv
    ∧ deadlineReached Config.params (tx .recv 1 0 (lineWith [1] [])) = true := by
  refine ⟨rfl, ?_⟩
  simp [deadlineReached, tx]

theorem wit_FinishDeliversAndReleases_stopped : ∃ c : Params, c.valid = true
    ∧ (running .recv 5 100 true [1] 10 12 15 (lineWith [] [])).ma.phase = .recv
    ∧ (running .recv 5 100 true [1] 10 12 15 (lineWith [] [])).line.rxfifo = []
    ∧ dataStopped c (running .recv 5 100 true [1] 10 12 15 (lineWith [] [])) = true :=
  ⟨ill, illustrative_valid, rfl, rfl, by decide⟩

theorem wit_AbortReleasesLock : ((tx .drain 0 3 ⟨[], [], [], true, true⟩).ma.phase ≠ .idle
      ∧ (tx .drain 0 3 ⟨[], [], [], true, true⟩).line.ioFault = true)
    ∧ State.reset.ma.phase = .idle ∧ (tx .recv 1 3 (lineWith [] [])).line.ioFault = false :=
  ⟨⟨by simp [tx], rfl⟩, rfl, rfl⟩

/-- The frame has left on the wire and one byte is already waiting in `RXFIFO`. -/
def sent (p : Phase) (tmo : Nat) : State := tx p 1 tmo ⟨[0x33], [], [0x7E], true, false⟩

theorem wit_ZeroTimeoutFinishesEmpty : Inv Config.params (sent .flush 0) ∧ SentInOrder (sent .flush 0)
    ∧ (sent .flush 0).ma.phase = .flush ∧ (sent .flush 0).line.txq = [] ∧ (sent .flush 0).ma.tmo = 0 :=
  ⟨tx_inv params_valid (by decide) (by simp) (by decide), fun _ => ⟨[], rfl⟩, rfl, rfl, rfl⟩

theorem wit_LockSetOnlyByGrant :
    (∃ t, runEvent (.grant 0) (tx .idle 0 3 (lineWith [] [])) = .next t
      ∧ (tx .idle 0 3 (lineWith [] [])).ma.lock = false ∧ t.ma.lock = true)
    ∧ ∃ t, runEvent .abort (tx .recv 1 3 ⟨[], [], [], true, true⟩) = .next t
      ∧ (tx .recv 1 3 ⟨[], [], [], true, true⟩).ma.lock = true ∧ t.ma.lock = false :=
  ⟨⟨_, rfl, rfl, rfl⟩, _, rfl, rfl, rfl⟩

theorem wit_PhaseFollowsTable :
    (∃ t, Inv Config.params (tx .idle 0 3 (lineWith [] [])) ∧ runEvent (.grant 0) (tx .idle 0 3 (lineWith [] [])) = .next t
      ∧ t.ma.phase ≠ (tx .idle 0 3 (lineWith [] [])).ma.phase)
    ∧ ∀ w ∈ ([(.drain, 0), (.write, 1), (.flush, 1)] : List (Phase × Nat)),
    ∃ t, Inv Config.params (tx w.1 w.2 3 (lineWith [] [])) ∧ runEvent .ma (tx w.1 w.2 3 (lineWith [] [])) = .next t
      ∧ t.ma.phase ≠ (tx w.1 w.2 3 (lineWith [] [])).ma.phase := by
  refine ⟨⟨_, tx_inv params_valid (by decide) (by decide) (by decide), rfl, ?_⟩, fun w hw => ?_⟩
  · rintro h; cases h
  simp only [List.mem_cons, List.not_mem_nil, or_false] at hw
  obtain rfl | rfl | rfl := hw <;>
    exact ⟨_, tx_inv params_valid (by decide) (by decide) (by decide), rfl, fun h => by cases h⟩

theorem wit_PendingRequestNotCancelled : Inv Config.params (tx .drain 0 3 (lineWith [] []))
    ∧ (∃ t, runEvent .ma (tx .drain 0 3 (lineWith [] [])) = .next t)
    ∧ ((tx .drain 0 3 (lineWith [] [])).reqOf 0).pending = true :=
  ⟨tx_inv params_valid (by decide) (by decide) (by decide), ⟨_, rfl⟩, rfl⟩

theorem wit_LineAccessedOnlyUnderLock : Inv Config.params (tx .idle 0 3 (lineWith [1] [2]))
    ∧ (tx .idle 0 3 (lineWith [1] [2])).ma.lock = false
    ∧ (∃ t, runEvent .serialise (tx .idle 0 3 (lineWith [1] [2])) = .next t)
    ∧ resetsDevice Config.params .serialise (tx .idle 0 3 (lineWith [1] [2])) = false :=
  ⟨tx_inv params_valid (by decide) (by decide) (by decide), rfl, ⟨_, rfl⟩, rfl⟩

/-- Requester 0 in its response window with timeout 0, requester 1 waiting. -/
def contended : State :=
  { State.reset with
    ma := ⟨true, 0, .recv, [(0, ⟨true, [0x7E], 0⟩), (1, ⟨true, [0x58], 3⟩)], [], [0x7E], 1, 1, 0, 0, 0, false, false, [], 0⟩
    now := 0 }

theorem contended_reqOf (i : Nat) : contended.reqOf i
    = if i = 0 then ⟨true, [0x7E], 0⟩ else if i = 1 then ⟨true, [0x58], 3⟩ else ReqSlot.reset := by
  simp [State.reqOf, contended, Table.get]

/-- Two requesters are needed, so the witness is an instance; a `ma` event is `agentStep`. -/
theorem wit_AnotherRequesterGrantedAfterwards : ∃ c : Params, c.valid = true ∧ Inv c contended
    ∧ contended.ma.lock = true ∧ (∃ t, agentStep c .ma contended = .next t ∧ t.ma.lock = false)
    ∧ 1 ≠ contended.ma.owner ∧ (contended.reqOf 1).pending = true := by
  refine ⟨ill, illustrative_valid, ?_, rfl, ⟨_, rfl, rfl⟩, by decide, rfl⟩
  constructor
  case buffers => rfl
  case lock_iff => simp [contended]
  case owner_pending => intro _; rfl
  case pending_port =>
    intro i h
    rw [contended_reqOf] at h
    split at h
    · subst i; exact ⟨rfl, rfl⟩
    · split at h
      · subst i; exact ⟨rfl, rfl⟩
      · cases h
  case slots_fit =>
    intro i
    rw [contended_reqOf]
    refine ⟨?_, ?_, rfl⟩ <;> (split; · decide) <;> split <;> decide
  case index_le => decide
  case index_idle => intro h; cases h
  case index_eq => intro _; rfl
  case ticks => exact ⟨by decide, by decide, by decide, by decide⟩
  case he_err => rfl
  case trigger_iff => decide
  case trigger_only => intro i h; cases h
  case in_xfer => intro i h; cases h
  case task_port => intro i h; exact absurd rfl h
  case running_task => simp [contended, State.reset, State.taskOf, Table.get, HostPc.waits, ServicePc.waits]
  case tables => simp [contended, State.reset, Table.wf]

theorem wit_ReceiveEndsWithinTimeout : Inv Config.params (tx .recv 1 3 (lineWith [] []))
    ∧ (tx .recv 1 3 (lineWith [] [])).ma.phase = .recv ∧ (tx .recv 1 3 (lineWith [] [])).wd.armed = false :=
  ⟨tx_inv params_valid (by decide) (by simp) (by decide), rfl, rfl⟩

theorem wit_StepKeepsSentInOrder : SentInOrder (tx .write 0 3 (lineWith [] []))
    ∧ ∃ t, step ((tx .write 0 3 (lineWith [] [])).withAgenda [.ma]) = .next t ∧ t.line.txq = [0x7E] :=
  ⟨fun _ => ⟨[], rfl⟩, _, rfl, rfl⟩

theorem wit_StepKeepsInvariant : Inv Config.params ((tx .write 0 3 (lineWith [] [])).withAgenda [.ma])
    ∧ ∃ t, step ((tx .write 0 3 (lineWith [] [])).withAgenda [.ma]) = .next t ∧ t.ma.txidx = 1 := by
  have h := tx_inv params_valid (p := .write) (idx := 0) (tmo := 3) (line := lineWith [] []) (by decide) (by simp)
    (by decide)
  exact ⟨⟨h.1, h.2, h.3, h.4, h.5, h.6, h.7, h.8, h.9, h.10, h.11, h.12, h.13, h.14, h.15, h.16⟩, _, rfl, rfl⟩

theorem wit_AgentsNeverStop : Inv Config.params (tx .write 0 3 (lineWith [] []))
    ∧ (∀ who, Ev.serve ≠ .op who) ∧ (∀ who r, Ev.serve ≠ .portRead who r)
    ∧ (∀ x, Ev.serve = .serve → (tx .write 0 3 (lineWith [] [])).host.service = .text x →
      fits Config.params.txtMax x = true) :=
  ⟨tx_inv params_valid (by decide) (by simp) (by decide), by simp, by simp, by simp [tx, State.reset]⟩

/-- Reset with this watchdog. -/
def guarded (w : WatchdogState) : State := { State.reset with wd := w }

theorem wit_EnvironmentSteps : (tx .write 1 3 (lineWith [] [0x7E])).line.txq = 0x7E :: []
    ∧ (tx .write 1 3 (lineWith [] [0x7E])).wd.armed = false
    ∧ (guarded ⟨true, 0, 0, false⟩).wd.armed = true ∧ resetsDevice Config.params .tick (guarded ⟨true, 0, 0, false⟩) = false := by
  refine ⟨rfl, rfl, rfl, ?_⟩
  have := (valid_facts params_valid).2.2.2.2.2.2.2.2.1
  by_cases h : Config.params.wdFeed ≤ 1 <;> simp [resetsDevice, wdExpired, wdTick, feedFires, guarded, h] <;> omega

theorem wit_WatchdogFeedAndExpiry : State.reset.wd.irqFrozen = false
    ∧ (guarded ⟨true, Config.params.wdWindow - 1, 0, true⟩).wd.armed = true
    ∧ (guarded ⟨true, Config.params.wdWindow - 1, 0, true⟩).wd.irqFrozen = true
    ∧ Config.params.wdWindow ≤ (guarded ⟨true, Config.params.wdWindow - 1, 0, true⟩).wd.count + 1 := by
  refine ⟨rfl, rfl, rfl, ?_⟩
  show Config.params.wdWindow ≤ Config.params.wdWindow - 1 + 1
  omega

theorem wit_WatchdogFeedAndExpiry_early : ∃ c : Params, c.valid = true ∧ (guarded ⟨true, 98, 0, true⟩).wd.armed = true
    ∧ (guarded ⟨true, 98, 0, true⟩).wd.irqFrozen = true ∧ (guarded ⟨true, 98, 0, true⟩).wd.count + 1 < c.wdWindow :=
  ⟨ill, illustrative_valid, rfl, rfl, by decide⟩

theorem wit_FeedKeepsWatchdogFromFiring :
    FeedKeepsUp Config.params (guarded ⟨true, Config.params.wdFeed, Config.params.wdFeed, false⟩).wd
    ∧ (∃ t, runEvent .tick (guarded ⟨true, Config.params.wdFeed, Config.params.wdFeed, false⟩) = .next t)
    ∧ (∀ b, Ev.tick ≠ .irqFreeze b) ∧ (guarded ⟨true, Config.params.wdFeed, Config.params.wdFeed, false⟩).wd.armed = true
    ∧ (guarded ⟨true, Config.params.wdFeed, Config.params.wdFeed, false⟩).wd.irqFrozen = false :=
  ⟨fun _ _ => ⟨Nat.le_refl _, Nat.le_refl _⟩, ⟨_, rfl⟩, by simp, rfl, rfl⟩

/-! ### Witnesses: the host sequences -/

/-- Requester context `i` is at `pc`, with this result slot; `run` has the processor and the service task is at `sv`. -/
def atPc (i : Nat) (pc : HostPc) (r : ResSlot) (run : Option HostTask := none) (sv : ServicePc := .off) : State :=
  { State.reset with
    ma := { State.reset.ma with res := [(i, r)] }
    host := { State.reset.host with task := [(i, pc)], trigIrqEnable := !pc.inTrigger, running := run, service := sv }
    now := 0 }

theorem atPc_taskOf (i : Nat) (pc : HostPc) (r : ResSlot) (run : Option HostTask) (sv : ServicePc) (j : Nat) :
    (atPc i pc r run sv).taskOf j = if j = i then pc else .idle := by
  simp [State.taskOf, atPc, Table.get]

theorem atPc_resOf (i : Nat) (pc : HostPc) (r : ResSlot) (run : Option HostTask) (sv : ServicePc) (j : Nat) :
    (atPc i pc r run sv).resOf j = if j = i then r else ResSlot.reset := by
  simp [State.resOf, atPc, Table.get]

/-- A result that holds these bytes. -/
def answer (bs : List Byte) : ResSlot := ⟨true, .noError, false, bs⟩

/-- A result of a transaction that the UART's fault ended. -/
def faulted : ResSlot := ⟨true, .transportFault, false, []⟩

/-- A context of a port may be in any sequence, between two block operations, when the processor is whose it is then. -/
theorem atPc_inv {c : Params} (hc : c.valid = true) {i : Nat} {pc : HostPc} {run : Option HostTask} {sv : ServicePc}
    (hi : i < c.nReq) (hx : pc.inXfer = false) (hf : pc.frame.length ≤ 7) (ht : pc.inTrigger = decide (i = c.trigReq))
    (hr : (∀ j, run = some (.requester j) → j ≠ c.trigReq ∧ (if j = i then pc else .idle).waits = false)
      ∧ (run = some .weightReply ↔ sv.waits = false)) : Inv c (atPc i pc ResSlot.reset run sv) := by
  obtain ⟨-, -, -, -, -, hn, hw, htx, -⟩ := valid_facts hc
  have h0 : 0 < 2 ^ c.tickW := Nat.two_pow_pos _
  have hres : ∀ j, (atPc i pc ResSlot.reset run sv).resOf j = ResSlot.reset := by
    intro j; rw [atPc_resOf]; split <;> rfl
  constructor
  case buffers =>
    simp [Memory.wf, atPc, State.reset]
    refine ⟨⟨⟨⟨?_, ?_⟩, ?_⟩, ?_⟩, ?_⟩ <;> unfold withinCap <;> split <;> simp
  case lock_iff => simp [atPc, State.reset]
  case owner_pending => intro h; cases h
  case pending_port => intro i h; cases h
  case slots_fit =>
    intro j
    rw [hres]
    refine ⟨?_, h0, ?_⟩
    · show withinCap c.txfMax 0 = true
      unfold withinCap; split <;> simp
    · show withinCap c.respMax 0 = true
      unfold withinCap; split <;> simp
  case index_le => exact Nat.zero_le _
  case index_idle => intro _; rfl
  case index_eq => intro h; rcases h with h | h <;> cases h
  case ticks => exact ⟨h0, h0, h0, h0⟩
  case he_err => rfl
  case trigger_iff =>
    rw [atPc_taskOf]
    simp only [atPc, Bool.not_eq_false']
    split
    · rfl
    · next e => rw [ht, decide_eq_true_eq]; exact ⟨fun h => absurd h.symm e, fun h => by cases h⟩
  case trigger_only =>
    intro j h
    rw [atPc_taskOf] at h
    split at h
    · next e => rw [ht, decide_eq_true_eq] at h; rw [e, h]
    · cases h
  case in_xfer =>
    intro j h
    rw [atPc_taskOf] at h
    split at h
    · rw [hx] at h; cases h
    · cases h
  case task_port =>
    intro j h
    rw [atPc_taskOf] at h ⊢
    split at h
    · next e => rw [if_pos e, e]; exact ⟨by simp [portExists, Params.hasPort, hi], hf⟩
    · exact absurd rfl h
  case running_task => exact ⟨fun j => by rw [atPc_taskOf]; exact hr.1 j, hr.2⟩
  case tables => simp [atPc, State.reset, Table.wf]

/-- The trigger handler's context holds no task up. -/
theorem atPc_inv_handler {c : Params} (hc : c.valid = true) {pc : HostPc} (hx : pc.inXfer = false)
    (hf : pc.frame.length ≤ 7) (ht : pc.inTrigger = true) : Inv c (atPc c.trigReq pc ResSlot.reset) := by
  exact atPc_inv hc (valid_facts hc).2.2.2.2.2.2.2.2.2.1 hx hf (by rw [ht, decide_eq_true rfl])
    ⟨fun j h => (by cases h), by simp [ServicePc.waits]⟩

/-- Reset with an operation waiting and this event next. -/
def waiting (bs : List Byte) (e : Ev) : State := { State.reset with cmds := bs, agenda := [e] }

/-- Requester 0 in its own sequence; another requester's port; a task, and the service task, that have the processor. -/
theorem wit_PortsRefuse_others :
    (let s := { waiting [0x0B, 0x00, 0x00] .tick with host := (atPc 0 (.cmdPost [0x7E] 3) ResSlot.reset).host };
      s.taskOf 0 ≠ .idle ∧ decode s.cmds = .ok (.getstate 0 0, []) ∧ (s.reqOf 1).pending = false)
    ∧ (atPc 0 (.cmdPost [0x7E] 3) ResSlot.reset (some (.requester 0))).processor = some (.requester 0)
    ∧ (atPc 0 .idle ResSlot.reset (some .weightReply) .weigh).processor = some .weightReply
    ∧ Config.params.trigReq + 1 ≠ Config.params.trigReq :=
  ⟨⟨fun h => (by cases h), rfl, rfl⟩, rfl, rfl, by omega⟩

/-- Three requesters, the last of them the trigger handler's. -/
def three : Params := { ill with nReq := 3, trigReq := 2 }

theorem wit_SequencesBeginWithFenc : 0 < Config.params.nReq ∧ State.reset.taskOf 0 = .idle
    ∧ (State.reset.reqOf 0).pending = false ∧ State.reset.mayRun Config.params 0 = true
    ∧ (let s := atPc 0 .idle ResSlot.reset (some .weightReply) .weigh;
      Inv three s ∧ s.taskOf 0 = .idle ∧ (s.reqOf 0).pending = false ∧ s.mayRun three 0 = false)
    ∧ (∀ call, (atPc 0 (.ready call) ResSlot.reset).taskOf 0 = .ready call
      ∧ (atPc 0 (.ready call) ResSlot.reset).mayRun Config.params 0 = true)
    ∧ fencFn Config.params (0 : BitVec 4).toNat [] = .ok [0x7E, 0x03, 0x01, 0x02, 0xEF]
    ∧ fencFn Config.params (11 : BitVec 4).toNat [] = .error ⟨.paramCount, .selCount 11 0⟩
    ∧ fencFn Config.params (15 : BitVec 4).toNat [] = .error ⟨.unknownOpcode, .sel 15⟩ :=
  ⟨(valid_facts params_valid).2.2.2.2.2.1, rfl, rfl, rfl,
    ⟨atPc_inv (by decide) (by decide) rfl (by decide) (by decide) ⟨fun j h => (by cases h), by decide⟩, rfl, rfl, rfl⟩,
    fun _ => ⟨rfl, rfl⟩, rfl, rfl, rfl⟩

theorem wit_SequencesPostTheirFrame :
    (let i := Config.params.trigReq
      ∀ pc ∈ [HostPc.gsPost true [0x7E] 3, .rqPost true [0x7E] 3 1, .rsPost true [0x7E] 3 1],
      Inv Config.params (atPc i pc ResSlot.reset) ∧ (atPc i pc ResSlot.reset).taskOf i = pc
      ∧ (atPc i pc ResSlot.reset).mayRun Config.params i = true ∧ 3 < 2 ^ Config.params.tickW
      ∧ ((atPc i pc ResSlot.reset).reqOf i).pending = false)
    ∧ ∀ pc ∈ [HostPc.cmdPost [0x7E] 3, .gsPost false [0x7E] 3, .rqPost false [0x7E] 3 1, .rsPost false [0x7E] 3 1],
      let s := atPc 0 pc ResSlot.reset (some (.requester 0))
      Inv ill s ∧ s.taskOf 0 = pc ∧ s.mayRun ill 0 = true ∧ 3 < 2 ^ ill.tickW ∧ (s.reqOf 0).pending = false := by
  have hw := (valid_facts params_valid).2.2.2.2.2.2.1
  have h4 : 2 ^ 2 ≤ 2 ^ Config.params.tickW := Nat.pow_le_pow_right (by decide) hw
  constructor
  · intro i pc h
    refine ⟨atPc_inv_handler params_valid ?_ ?_ ?_, by rw [atPc_taskOf, if_pos rfl], rfl, by omega, rfl⟩ <;>
      · simp only [List.mem_cons, List.not_mem_nil, or_false] at h
        obtain rfl | rfl | rfl := h <;> decide
  · intro pc h
    refine ⟨atPc_inv illustrative_valid (by decide) ?_ ?_ ?_ ⟨fun j => ?_, by decide⟩, by rw [atPc_taskOf, if_pos rfl], rfl,
      by decide, rfl⟩
    · simp only [List.mem_cons, List.not_mem_nil, or_false] at h
      obtain rfl | rfl | rfl | rfl := h <;> decide
    · simp only [List.mem_cons, List.not_mem_nil, or_false] at h
      obtain rfl | rfl | rfl | rfl := h <;> decide
    · simp only [List.mem_cons, List.not_mem_nil, or_false] at h
      obtain rfl | rfl | rfl | rfl := h <;> decide
    · have hp : pc.waits = false := by
        simp only [List.mem_cons, List.not_mem_nil, or_false] at h
        obtain rfl | rfl | rfl | rfl := h <;> rfl
      rintro h; cases h
      exact ⟨by decide, by rw [if_pos rfl, hp]⟩

/-- The bytes of an answer that FDEC reads as the digits 0 to 5, and as nothing. -/
theorem wit_replies : (∀ w ∈ ([(0x30, 0), (0x31, 1), (0x32, 2), (0x33, 3), (0x34, 4), (0x35, 5)] : List (Byte × Nat)),
      fits Config.params.respMax [w.1] = true ∧ fdecFn Config.params [w.1] = .ok (.hex w.2))
    ∧ fits Config.params.respMax [] = true ∧ fdecFn Config.params [] = .error ⟨.transportTimeout, .none⟩
    ∧ ∃ c : Params, c.valid = true ∧ fits c.respMax [0x4F, 0x4B] = true ∧ fdecFn c [0x4F, 0x4B] = .ok (.ack []) := by
  refine ⟨?_, fits_response (by decide), rfl, ill, illustrative_valid, rfl, rfl⟩
  intro w hw
  simp only [List.mem_cons, List.not_mem_nil, or_false] at hw
  obtain rfl | rfl | rfl | rfl | rfl | rfl := hw <;>
    exact ⟨fits_response (by decide), fdec_digit params_valid rfl⟩

/-- The states of the clauses of CmdAndGetstateEnd; their replies are those of `wit_replies`. -/
theorem wit_CmdAndGetstateEnd : ∀ pc ∈ [HostPc.cmdWait, .gsWait false 3], ∀ bs : List Byte,
    ((atPc 0 pc (answer bs)).resOf 0).valid = true ∧ (atPc 0 pc (answer bs)).taskOf 0 = pc
    ∧ ((atPc 0 pc (answer bs)).mayRun Config.params 0 = true ∧ ((atPc 0 pc (answer bs)).reqOf 0).pending = false)
    ∧ ((atPc 0 pc (answer bs)).resOf 0).err ≠ .transportFault ∧ ((atPc 0 pc (answer bs)).resOf 0).bytes = bs
    ∧ ((atPc 0 pc faulted).resOf 0).valid = true ∧ (atPc 0 pc faulted).taskOf 0 = pc
    ∧ ((atPc 0 pc faulted).resOf 0).err = .transportFault := by
  intro pc _ bs
  refine ⟨?_, ?_, ⟨rfl, rfl⟩, ?_⟩ <;> simp [atPc_taskOf, atPc_resOf, answer, faulted]

/-- The states of the clauses of QuantityReplyDecides, and (for an instance whose acknowledgement fits) the replies
`OK0005`, `OK0000` and `OK005`; the others are those of `wit_replies`. -/
theorem wit_QuantityReplyDecides (bs : List Byte) :
    (atPc 0 (.rqWait false 3 5) (answer bs)).taskOf 0 = .rqWait false 3 5
    ∧ ((atPc 0 (.rqWait false 3 5) (answer bs)).resOf 0).valid = true
    ∧ (atPc 0 (.rqWait false 3 5) (answer bs)).mayRun Config.params 0 = true
    ∧ ((atPc 0 (.rqWait false 3 5) (answer bs)).resOf 0).err ≠ .transportFault
    ∧ ((atPc 0 (.rqWait false 3 5) faulted).resOf 0).err = .transportFault
    ∧ ∃ c : Params, c.valid = true
      ∧ (∀ d ∈ ([[0x30, 0x30, 0x30, 0x35], [0x30, 0x30, 0x30, 0x30], [0x30, 0x30, 0x35]] : List (List Byte)),
        fits c.respMax (c.ackPrefix ++ d) = true ∧ fdecFn c (c.ackPrefix ++ d) = .ok (.ack d)
        ∧ ∀ x ∈ d, ishex x = true)
      ∧ 4096 * hexval 0x30 + 256 * hexval 0x30 + 16 * hexval 0x30 + hexval 0x35 = 5 := by
  refine ⟨rfl, rfl, rfl, by simp [atPc_resOf, answer], rfl, ill, illustrative_valid, ?_, rfl⟩
  intro d hd
  simp only [List.mem_cons, List.not_mem_nil, or_false] at hd
  obtain rfl | rfl | rfl := hd <;> exact ⟨rfl, rfl, by decide⟩

/-- The states of the clauses of TrackSelectAndSuccess; their replies are those of `wit_replies`. -/
theorem wit_TrackSelectAndSuccess (bs : List Byte) :
    ((atPc 0 (.rsStart false 3 65535) ResSlot.reset).taskOf 0 = .rsStart false 3 65535 ∧ 65535 < 65536
      ∧ (atPc 0 (.rsStart false 3 65535) ResSlot.reset).mayRun Config.params 0 = true)
    ∧ (atPc 0 (.rsWait false 5) (answer bs)).taskOf 0 = .rsWait false 5
    ∧ (atPc 0 (.rsWait false 5) (answer bs)).mayRun Config.params 0 = true
    ∧ ((atPc 0 (.rsWait false 5) (answer bs)).resOf 0).valid = true
    ∧ ((atPc 0 (.rsWait false 5) (answer bs)).resOf 0).err ≠ .transportFault
    ∧ ((atPc 0 (.rsWait false 5) faulted).resOf 0).err = .transportFault := by
  refine ⟨⟨rfl, by decide, rfl⟩, rfl, rfl, rfl, by simp [atPc_resOf, answer], rfl⟩

/-- The states of the clauses of TriggerPolicy; the replies are those of `wit_replies`. -/
theorem wit_TriggerPolicy (bs : List Byte) :
    let i := Config.params.trigReq
    (State.reset.host.trigIrqEnable = true ∧ State.reset.ctxFree i = true ∧ State.reset.wd.irqFrozen = false)
    ∧ (guarded ⟨false, 0, 0, true⟩).wd.irqFrozen = true
    ∧ (atPc i (.gsWait true 3) ResSlot.reset).host.trigIrqEnable = false
    ∧ ((atPc i (.gsWait true 3) (answer bs)).taskOf i = .gsWait true 3
      ∧ ((atPc i (.gsWait true 3) (answer bs)).resOf i).valid = true
      ∧ ((atPc i (.gsWait true 3) (answer bs)).resOf i).err ≠ .transportFault
      ∧ ((atPc i (.gsWait true 3) faulted).resOf i).err = .transportFault)
    ∧ (atPc i (.rqStart 3) ResSlot.reset).taskOf i = .rqStart 3
    ∧ (atPc i .trigExit ResSlot.reset).taskOf i = .trigExit
    ∧ ∀ j pc r, (atPc j pc r).wd.irqFrozen = false ∧ ∀ k, ((atPc j pc r).reqOf k).pending = false := by
  refine ⟨⟨rfl, rfl, rfl⟩, rfl, rfl, ?_, ?_, ?_, fun _ _ _ => ⟨rfl, fun _ => rfl⟩⟩ <;> simp [atPc_taskOf, atPc_resOf, answer, faulted]

theorem wit_WserveAnswersOnlyTheRequest :
    (let s := atPc 0 (.cmdPost [0x7E] 3) ResSlot.reset (some (.requester 0));
      s.serviceMayRun = false ∧ s.host.service = .off)
    ∧ (State.reset.serviceMayRun = true ∧ State.reset.host.service.waits = true ∧ State.reset.bridge.rx = [])
    ∧ (∀ b, (bridged b).serviceMayRun = true ∧ (bridged b).host.service.waits = true ∧ (bridged b).bridge.rx = b :: [])
    ∧ fits Config.params.txtMax (hexText Config.params.hexCase [1, 1, 1, 3]) = true
    ∧ fits Config.params.txtMax (hexText Config.params.hexCase [1, 1, 1, 4]) = true
    ∧ ∃ c : Params, c.valid = true ∧ c.txtMax = some 8 ∧ 8 < (hexText c.hexCase [1, 1, 1, 3, 0]).length :=
  ⟨⟨rfl, rfl⟩, ⟨rfl, rfl, rfl⟩, fun _ => ⟨rfl, rfl, rfl⟩, fits_text (by decide), fits_text (by decide),
    { ill with txtMax := some 8 }, by decide, rfl, by decide⟩

/-! ### Witnesses: the ports, the encoding, the step -/

/-- After `FENC.PLAY`: five bytes are valid in `FBUF`. -/
def played : State := fencOp ill 0 [] State.reset

theorem wit_PortReadsWithinValid : State.reset.mayPresent none = true
    ∧ State.reset.mayPresent (some 0) = true
    ∧ 0 + 5 ≤ played.fe.flen ∧ played.fe.flen < 0 + 6
    ∧ ((hencOp ill 0 State.reset).he.hvalid = true ∧ ∃ raw text, (hencOp ill 0 State.reset).he.out = .hexReply raw text)
    ∧ 0 + 8 ≤ 8 ∧ 8 < 1 + 8 ∧ 0 + 16 ≤ 16 ∧ 16 < 1 + 16
    ∧ State.reset.he.hvalid = false
    ∧ ((hexlifyOp ill [] (hencOp ill 0 State.reset)).he.hvalid = true
      ∧ ∀ raw text, (hexlifyOp ill [] (hencOp ill 0 State.reset)).he.out ≠ .hexReply raw text)
    ∧ (fdecOp ill [0x4F, 0x4B] State.reset).fd.kind = .ack ∧ (fdecOp ill [0x33] State.reset).fd.kind = .hex
    ∧ (fparseOp ill [0x7E, 0x03, 0x01, 0x02, 0xEF] State.reset).fd.kind = .frame ∧ State.reset.fd.kind = .none
    ∧ Config.params.hasPort Config.params.nReq = false
    ∧ (Config.params.hasPort 0 = true ∧ (State.reset.reqOf 0).pending = false)
    ∧ ((tx .recv 1 3 (lineWith [] [])).mayPresent none = true
      ∧ ((tx .recv 1 3 (lineWith [] [])).reqOf 0).pending = true) := by
  refine ⟨rfl, rfl, by decide, by decide, ⟨rfl, _, _, rfl⟩, by decide, by decide, by decide, by decide, rfl,
    ⟨rfl, fun _ _ h => by cases h⟩, rfl, rfl, rfl, rfl, wit_PortsRefuse_blocked.2.2, ⟨rfl, rfl⟩, rfl, rfl⟩

theorem wit_DecodeEncodeRoundTrip : (Instr.fencPlay []).wf = true ∧ (Instr.xfer 0 [0x7E] 0).wf = true
    ∧ (Instr.cmd 0 13 [1, 2] 0).wf = true ∧ (Instr.randomplay Config.params.trigReq Config.params.trigTmo 65535).wf = true
    ∧ (Instr.fencSeltrk16 65535).wf = true := by
  obtain ⟨-, -, -, -, -, -, -, -, -, h1, h2, -⟩ := valid_facts params_valid
  exact ⟨rfl, rfl, rfl, by simp [Instr.wf, Instr.wfIn, Params.hasPort, Params.isTicks, h1, h2], rfl⟩

theorem wit_DecodeIsCanonical : decode [0x04, 0x01, 0x7E, 0x0D] = .ok (.fparse [0x7E], [0x0D])
    ∧ decode [0x7E, 0x03, 0x01, 0x02, 0xEF] = .ok (.fencPlay [], []) := ⟨rfl, rfl⟩

theorem wit_StepRunsDecodedOperation :
    (∀ who ∈ [none, some 0], (waiting [0x0F] (.op who)).agenda = .op who :: []
      ∧ (waiting [0x0F] (.op who)).mayPresent who = true ∧ ownPort who .wdfeed = true
      ∧ inOrder who .wdfeed (waiting [0x0F] (.op who)) = true)
    ∧ inOrder (some 0) (.getstate 0 0) (atPc 0 (.cmdPost [0x7E] 3) ResSlot.reset) = false
    ∧ decode [0x0F] = .ok (.wdfeed, [])
    ∧ (tx .recv 1 3 (lineWith [] [])).mayPresent (some 0) = false
    ∧ (waiting [] .tick).agenda = .tick :: [] := by
  refine ⟨fun who h => ?_, rfl, rfl, rfl, rfl⟩
  simp only [List.mem_cons, List.not_mem_nil, or_false] at h
  obtain rfl | rfl := h <;> exact ⟨rfl, rfl, rfl, rfl⟩

theorem wit_FetchWordRunsItsOperation : decodeTableWord 8 0xF = some .wdfeed
    ∧ decodeTableWord 48 0xEF3A0F31047E = some (.fencSetvol [0x0F]) := ⟨rfl, rfl⟩

end Sys2Proof.Tests
end

section
/-! What `step` and `issueOp` answer in each case (spec/00_scope.md R15, spec/43_bus_arbiter.md R221 and R223,
spec/44_host_sequences.md R260; log 1, log 35), and the statement that a step runs the decoded operation. -/

namespace Sys2Proof.Machine

/-- The event at the head of the agenda is taken off it and run (log 1). -/
theorem step_of_agenda {s : State} {e : Ev} {es : List Ev} (h : s.agenda = e :: es) :
    step s = runEvent e (s.withAgenda es) := by
  simp only [step, nextEvent, h]

/-- A stream that decodes to an operation is not empty. -/
theorem isEmpty_eq_false_of_decode {bs rest : List Byte} {i : Instr} (h : decode bs = .ok (i, rest)) :
    bs.isEmpty = false := by
  cases bs with
  | nil => cases h
  | cons b bs => rfl

/-- A blocked context leaves whatever is in the stream (R223). -/
theorem issueOp_of_blocked {who : Option Nat} {s : State} (h : s.mayPresent who = false) : issueOp who s = .next s := by
  simp [issueOp, h]

/-- At its own port a context that is not blocked presents an operation: it is taken off the stream and run, or waits when it
begins a sequence out of order (R221, R260). -/
theorem issueOp_of_decode {who : Option Nat} {s : State} {i : Instr} {rest : List Byte}
    (hd : decode s.cmds = .ok (i, rest)) (hp : s.mayPresent who = true) (ho : ownPort who i = true) :
    issueOp who s = if inOrder who i s then exec i (s.withCmds rest) else .next s := by
  simp [issueOp, isEmpty_eq_false_of_decode hd, hd, hp, ho]

/-- An operation that would begin a sequence out of order waits, whether its context is blocked or not. -/
theorem issueOp_of_not_inOrder {who : Option Nat} {s : State} {i : Instr} {rest : List Byte}
    (hd : decode s.cmds = .ok (i, rest)) (ho : ownPort who i = true) (hs : inOrder who i s = false) :
    issueOp who s = .next s := by
  cases hp : s.mayPresent who with
  | false => exact issueOp_of_blocked hp
  | true => simp [issueOp_of_decode hd hp ho, hs]

/-- Settles O59: the step is the event at the head of the agenda; for a presentation that event is `issueOp`, whose three
cases are the lemmas above. -/
theorem stepRunsDecodedOperation : Obligations.StepRunsDecodedOperation := by
  refine ⟨fun s es who i rest ha hd => ?_, fun s e es ha => step_of_agenda ha⟩
  have hstep : step s = issueOp who (s.withAgenda es) := step_of_agenda ha
  rw [hstep]
  refine ⟨fun hp ho hs => ?_, ?_⟩
  · exact (issueOp_of_decode (s := s.withAgenda es) hd hp ho).trans (if_pos hs)
  · rintro (hp | ⟨ho, hs⟩)
    · exact issueOp_of_blocked hp
    · exact issueOp_of_not_inOrder hd ho hs

end Sys2Proof.Machine
end

section
/-! No unit writes another's state (spec/10_state.md R20): whatever operation of XG, SG, FE, FD, HE or HD completes, nothing outside
its unit changes. -/

namespace Sys2Proof.Machine

/-- What a port that refuses some operands lets through completes as the operation behind it (R82). -/
theorem next_of_guard {b : Bool} {u t : State} {r : Refusal}
    (h : (if b then .next u else .refused r : Result) = .next t) : b = true ∧ t = u := by
  cases b with
  | true => cases h; exact ⟨rfl, rfl⟩
  | false => cases h

/-- VERIFY writes the accumulator of its strategy's unit only (R20, R22, R23). -/
theorem verifyState_only (g : Bool) (bs : List Byte) (k : Byte) (s : State) :
    OnlyUnit (if g then .sg else .xg) s (verifyState g bs k s) := by
  cases g <;> rfl

/-- A FENC form that completes is FENC of its row, which writes FE only (R20, R156 to R169). -/
theorem onlyFe_of_next_fencOp {c : Params} {sel : Nat} {p : List Byte} {s t : State}
    (h : (.next (fencOp c sel p s) : Result) = .next t) : OnlyFe s t := by
  cases h
  exact fencOp_only c sel p s

/-- Settles O21, operation by operation: XG, SG and HE by their one update, FE, FD and HD by the law of the operation
behind the port. -/
theorem unitsArePrivate : Obligations.UnitsArePrivate := by
  intro i u s t hu h
  cases i
  -- the checksum units
  case xorsum bs => cases hu; cases h; rfl
  case addsum bs => cases hu; cases h; rfl
  case verify g bs k =>
    cases h
    cases g with
    | false => cases hu; exact verifyState_only false bs k s
    | true => cases hu; exact verifyState_only true bs k s
  case xverify bs k => cases hu; cases h; exact verifyState_only false bs k s
  case averify bs k => cases hu; cases h; exact verifyState_only true bs k s
  -- the hex-frame units
  case hexlify bs => cases hu; cases h; rfl
  case henc w => cases hu; cases h; rfl
  case unhex x => cases hu; obtain ⟨-, rfl⟩ := next_of_guard h; exact unhexOp_only x s
  case hdec x => cases hu; obtain ⟨-, rfl⟩ := next_of_guard h; exact hdecOp_only x s
  -- the decoder of audio frames
  case fparse bs => cases hu; obtain ⟨-, rfl⟩ := next_of_guard h; exact fparseOp_only _ bs s
  case fdec r => cases hu; obtain ⟨-, rfl⟩ := next_of_guard h; exact fdecOp_only _ r s
  -- XFER and the host sequences have no unit
  case xfer | getstate | randomplay | cmd | trigger | wserve | wdfeed => cases hu
  -- FENC, its fourteen forms and FENC.SELTRK16
  all_goals cases hu; exact onlyFe_of_next_fencOp h

end Sys2Proof.Machine
end

section
/-! `LOCK` (spec/10_state.md R30): what each step of MA does to it, and what a move of any agent does. -/

namespace Sys2Proof.Machine

/-- A release frees the lock (R235, R236). -/
@[simp] theorem release_lock (r : ResSlot) (s : State) : (release r s).ma.lock = false := rfl

/-- Posting leaves the lock (R223). -/
@[simp] theorem postState_lock (c : Params) (i : Nat) (f : List Byte) (tmo : Nat) (s : State) :
    (postState c i f tmo s).ma.lock = s.ma.lock := rfl

/-- A grant leaves the lock, or takes it for a pending requester (R226, R227). -/
theorem grantStep_lock (i : Nat) (s : State) :
    (grantStep i s).ma.lock = s.ma.lock ∨ ((grantStep i s).ma.lock = true ∧ (s.reqOf i).pending = true) := by
  unfold grantStep
  split
  · next h => exact .inr ⟨rfl, (Bool.and_eq_true_iff.1 h).2⟩
  · exact .inl rfl

/-- An abort leaves the lock, or frees it under `io_fault` (R236). -/
theorem abortStep_lock (s : State) :
    (abortStep s).ma.lock = s.ma.lock ∨ ((abortStep s).ma.lock = false ∧ s.line.ioFault = true) := by
  unfold abortStep
  split
  · next h => exact .inr ⟨rfl, h.2⟩
  · exact .inl rfl

/-- The write phase leaves the lock (R229). -/
theorem writeStep_lock {s t : State} (h : writeStep s = .next t) : t.ma.lock = s.ma.lock := by
  unfold writeStep at h
  split at h
  · split at h
    · unfold pushStep at h
      split at h <;> cases h
      rfl
    · cases h; rfl
  · split at h <;> cases h <;> rfl

/-- The flush leaves the lock (R230). -/
theorem flushStep_lock (s : State) : (flushStep s).ma.lock = s.ma.lock := by
  unfold flushStep
  split <;> rfl

/-- Taking a byte leaves the lock (R231, R234). -/
theorem takeByte_lock (c : Params) (b : Byte) (rest : List Byte) (s : State) :
    (takeByte c b rest s).ma.lock = s.ma.lock := by
  unfold takeByte
  split <;> rfl

/-- The receive phase leaves the lock or finishes (R231, R233, R235). -/
theorem receiveStep_lock (c : Params) (s : State) :
    (receiveStep c s).ma.lock = s.ma.lock ∨ (receiveStep c s).ma.lock = false := by
  unfold receiveStep
  split
  · exact .inr rfl
  · split
    · exact .inl (takeByte_lock ..)
    · split
      · exact .inr rfl
      · exact .inl rfl

/-- Of MA's phase steps only the one in RECV frees the lock, and none takes it (R242). -/
theorem maStep_lock {c : Params} {s t : State} (h : maStep c s = .next t) :
    t.ma.lock = s.ma.lock ∨ (t.ma.lock = false ∧ s.ma.phase = .recv) := by
  unfold maStep at h
  split at h
  · cases h; exact .inl rfl
  · cases h; exact .inl rfl
  · exact .inl (writeStep_lock h)
  · cases h; exact .inl (flushStep_lock s)
  · next hp => cases h; exact (receiveStep_lock c s).imp_right (⟨·, hp⟩)

/-- What a move can do to the lock: leave it, take it by a grant, or free it by a finish, an abort or a reset (R30, R322). -/
theorem runEvent_lock {e : Ev} {s t : State} (h : runEvent e s = .next t) :
    t.ma.lock = s.ma.lock
    ∨ (t.ma.lock = true ∧ ∃ i, e = .grant i ∧ (s.reqOf i).pending = true)
    ∨ (t.ma.lock = false ∧ ((e = .ma ∧ s.ma.phase = .recv) ∨ (e = .abort ∧ s.line.ioFault = true)
      ∨ resetsDevice Config.params e s = true)) := by
  cases runEvent_move h with
  | none hm | flags hm => exact .inl (by rw [hm])
  | post i f tmo hp hf hn hm => exact .inl (by rw [hm, postState_lock])
  | peer b he ht => subst ht; exact .inl rfl
  | serialise he ht => subst ht; unfold serialiseStep; split <;> exact .inl rfl
  | grant i he ht =>
    subst ht
    exact (grantStep_lock i s).imp_right fun ⟨hl, hp⟩ => .inl ⟨hl, i, he, hp⟩
  | phase he ht => exact (maStep_lock ht).imp_right fun ⟨hl, hp⟩ => .inr ⟨hl, .inl ⟨he, hp⟩⟩
  | abort he ht =>
    subst ht
    exact (abortStep_lock s).imp_right fun ⟨hl, hf⟩ => .inr ⟨hl, .inr (.inl ⟨he, hf⟩)⟩
  | reset he hm => exact .inr (.inr ⟨by rw [hm]; rfl, .inr (.inr he)⟩)

/-- Settles O33: of the three things a move can do to the lock, taking it is a grant and freeing it is one of the three
ends. -/
theorem lockSetOnlyByGrant : Obligations.LockSetOnlyByGrant := by
  intro e s t h
  obtain same | ⟨taken, hgrant⟩ | ⟨freed, hend⟩ := runEvent_lock h
  · exact ⟨fun h0 h1 => by simp [same, h0] at h1, fun h1 h0 => by simp [same, h1] at h0⟩
  · exact ⟨fun _ _ => hgrant, fun _ h0 => by simp [taken] at h0⟩
  · exact ⟨fun _ h1 => by simp [freed] at h1, fun _ _ => hend⟩

end Sys2Proof.Machine
end

section
/-! The state after reset (spec/10_state.md R28, R47): its values, and the two invariants it meets. -/

namespace Sys2Proof.Machine

@[simp] theorem reset_reqOf (i : Nat) : State.reset.reqOf i = ReqSlot.reset := rfl
@[simp] theorem reset_resOf (i : Nat) : State.reset.resOf i = ResSlot.reset := rfl

/-- The empty length is within every capacity. -/
theorem withinCap_zero (cap : Option Nat) : withinCap cap 0 = true := by
  cases cap with
  | none => rfl
  | some m => exact decide_eq_true (Nat.zero_le m)

/-- The invariant holds after reset, whatever operations and events are loaded: nothing is pending and no context is in a
sequence, so its clauses on the owner, the slots and the tasks ask nothing. -/
theorem reset_inv (cmds : List Byte) (agenda : List Ev) :
    Inv Config.params { State.reset with cmds := cmds, agenda := agenda } where
  buffers := reset_memory_wf _ cmds agenda
  lock_iff := ⟨fun _ => rfl, fun _ => rfl⟩
  owner_pending h := by cases h
  pending_port i h := by cases h
  slots_fit i := ⟨withinCap_zero _, Nat.two_pow_pos _, withinCap_zero _⟩
  index_le := Nat.le_refl 0
  index_idle _ := rfl
  index_eq _ := rfl
  ticks := ⟨Nat.mod_lt _ (Nat.two_pow_pos _), Nat.two_pow_pos _, Nat.two_pow_pos _, Nat.two_pow_pos _⟩
  he_err := rfl
  trigger_iff := ⟨fun h => (by cases h), fun h => (by cases h)⟩
  trigger_only i h := by cases h
  in_xfer i h := by cases h
  task_port i h := absurd rfl h
  running_task := ⟨fun i h => (by cases h), ⟨fun h => (by cases h), fun h => (by cases h)⟩⟩
  tables := ⟨Table.wf_nil, Table.wf_nil, Table.wf_nil, Table.wf_nil⟩

/-- After reset MA is in no phase in which bytes have been pushed. -/
theorem reset_sentInOrder (cmds : List Byte) (agenda : List Ev) :
    SentInOrder { State.reset with cmds := cmds, agenda := agenda } := by
  rintro (h | h | h) <;> cases h

/-- Settles O41. -/
theorem resetHasInvariant : Obligations.ResetHasInvariant :=
  fun cmds agenda => ⟨reset_inv cmds agenda, reset_sentInOrder cmds agenda⟩

/-- Settles O44: every value is the one `State.reset` writes, and a slot that is not listed has its reset value. -/
theorem resetValues : Obligations.ResetValues := by
  have hslots : ∀ i, (State.reset.reqOf i).pending = false ∧ (State.reset.resOf i).valid = false := by
    simp [ReqSlot.reset, ResSlot.reset]
  exact ⟨rfl, rfl, rfl, rfl, rfl, rfl, rfl, rfl, rfl, rfl, rfl, rfl, rfl, rfl, rfl, rfl, rfl, rfl, rfl, hslots, rfl, rfl⟩

end Sys2Proof.Machine
end

section
/-! The frame goes out in order (spec/20_memory.md R74, spec/43_bus_arbiter.md R229): only a push extends what has been pushed, and
it hands the line that very byte; the move that takes bytes back from the line, an abort, ends the transaction. -/

namespace Sys2Proof.Machine

/-- Outside a transaction nothing is asked of the line. -/
theorem sentInOrder_of_idle {s : State} (h : s.ma.phase = .idle) : SentInOrder s := by simp [SentInOrder, h]

/-- Before the write phase nothing is asked of the line. -/
theorem sentInOrder_of_drain {s : State} (h : s.ma.phase = .drain) : SentInOrder s := by simp [SentInOrder, h]

/-- With nothing pushed yet there is nothing to be out of order. -/
theorem sentInOrder_of_txidx_zero {s : State} (h : s.ma.txidx = 0) : SentInOrder s := by simp [SentInOrder, h]

/-- What has been pushed depends on `TXF`, `TXIDX` and what was handed to the line, sent or not, and not on which of the
phases with something pushed MA is in. -/
theorem SentInOrder.congr {s t : State} (h : SentInOrder s)
    (hp : s.ma.phase = t.ma.phase ∨ s.ma.phase = .write ∨ s.ma.phase = .flush ∨ s.ma.phase = .recv)
    (hf : t.ma.txf = s.ma.txf) (hi : t.ma.txidx = s.ma.txidx)
    (hl : t.line.wire ++ t.line.txq = s.line.wire ++ s.line.txq) : SentInOrder t := by
  intro ht
  rw [hf, hi, hl]
  exact h (hp.elim (fun e => e ▸ ht) id)

/-- The same when MA is not touched. -/
theorem SentInOrder.congr_ma {s t : State} (h : SentInOrder s) (hm : t.ma = s.ma)
    (hl : t.line.wire ++ t.line.txq = s.line.wire ++ s.line.txq) : SentInOrder t :=
  h.congr (.inl (by rw [hm])) (by rw [hm]) (by rw [hm]) hl

/-- What the write phase can do (R229): wait, end, or push the byte at `TXIDX`. -/
theorem writeStep_next {s t : State} (h : writeStep s = .next t) :
    t = s ∨ t = endWriteStep s
    ∨ ∃ b, s.ma.txf[s.ma.txidx]? = some b
      ∧ t = (s.withLine { s.line with txq := s.line.txq ++ [b] }).withMa { s.ma with txidx := s.ma.txidx + 1 } := by
  unfold writeStep at h
  split at h
  · split at h
    · unfold pushStep at h
      split at h
      · next b hb => cases h; exact .inr (.inr ⟨b, getElem_of_memRead_one hb, rfl⟩)
      · cases h
    · cases h; exact .inl rfl
  · split at h
    · cases h; exact .inr (.inl rfl)
    · cases h; exact .inl rfl

/-- The next byte of a frame, put behind what ends with the bytes before it, makes an end that is one byte longer. -/
theorem take_succ_suffix_concat {f w : List Byte} {n : Nat} {b : Byte} (hb : f[n]? = some b) (h : f.take n <:+ w) :
    f.take (n + 1) <:+ w ++ [b] := by
  rw [List.take_add_one, hb]
  exact (List.suffix_append_inj_of_length_eq rfl).2 ⟨h, rfl⟩

/-- The write phase keeps the order: a push hands the line the next byte of the frame (R229). -/
theorem writeStep_sentInOrder {s t : State} (hp : s.ma.phase = .write) (hs : SentInOrder s)
    (h : writeStep s = .next t) : SentInOrder t := by
  obtain rfl | rfl | ⟨b, hb, rfl⟩ := writeStep_next h
  · exact hs
  · exact hs.congr (.inr (.inl hp)) rfl rfl rfl
  · intro _
    have hpush := take_succ_suffix_concat hb (hs (.inl hp))
    rwa [List.append_assoc] at hpush

/-- The flush keeps the order: it leaves the frame and the line (R230). -/
theorem flushStep_sentInOrder {s : State} (hp : s.ma.phase = .flush) (hs : SentInOrder s) : SentInOrder (flushStep s) := by
  unfold flushStep
  split
  · exact hs.congr (.inr (.inr (.inl hp))) rfl rfl rfl
  · exact hs

/-- Taking a byte keeps the order: it writes `RESP` and `RXFIFO`, not the frame and not the transmit path (R231, R234). -/
theorem takeByte_sentInOrder (c : Params) (b : Byte) (rest : List Byte) {s : State} (hs : SentInOrder s) :
    SentInOrder (takeByte c b rest s) := by
  unfold takeByte
  split <;> exact hs.congr (.inl rfl) rfl rfl rfl

/-- The receive phase keeps the order: it takes a byte, waits, or finishes the transaction (R231, R235). -/
theorem receiveStep_sentInOrder (c : Params) {s : State} (hs : SentInOrder s) : SentInOrder (receiveStep c s) := by
  unfold receiveStep
  split
  · exact sentInOrder_of_idle rfl
  · split
    · exact takeByte_sentInOrder c _ _ hs
    · split
      · exact sentInOrder_of_idle rfl
      · exact hs

/-- Every step of MA keeps the order (R242). -/
theorem maStep_sentInOrder {c : Params} {s t : State} (hs : SentInOrder s) (h : maStep c s = .next t) : SentInOrder t := by
  unfold maStep at h
  split at h
  · cases h; exact hs
  · cases h; exact sentInOrder_of_txidx_zero rfl
  · next hp => exact writeStep_sentInOrder hp hs h
  · next hp => cases h; exact flushStep_sentInOrder hp hs
  · cases h; exact receiveStep_sentInOrder c hs

/-- A grant keeps the order: the phase it begins has nothing pushed (R227). -/
theorem grantStep_sentInOrder (i : Nat) {s : State} (hs : SentInOrder s) : SentInOrder (grantStep i s) := by
  unfold grantStep
  split
  · exact sentInOrder_of_drain rfl
  · exact hs

/-- An abort keeps the order: it ends the transaction (R236). -/
theorem abortStep_sentInOrder {s : State} (hs : SentInOrder s) : SentInOrder (abortStep s) := by
  unfold abortStep
  split
  · exact sentInOrder_of_idle rfl
  · exact hs

/-- The serialiser moves the oldest byte of the transmit path to the wire, behind those sent before it (R43). -/
theorem serialiseStep_handed (s : State) :
    (serialiseStep s).line.wire ++ (serialiseStep s).line.txq = s.line.wire ++ s.line.txq := by
  unfold serialiseStep
  split <;> simp [*]

/-- The serialiser leaves MA. -/
theorem serialiseStep_ma (s : State) : (serialiseStep s).ma = s.ma := by
  unfold serialiseStep
  split <;> rfl

/-- Every move of every agent keeps the order. -/
theorem runEvent_sentInOrder {e : Ev} {s t : State} (hs : SentInOrder s) (h : runEvent e s = .next t) :
    SentInOrder t := by
  cases runEvent_move h with
  | none hm hl => exact hs.congr_ma hm (by rw [hl])
  | peer b he ht => subst ht; exact hs.congr_ma rfl rfl
  | serialise he ht => subst ht; exact hs.congr_ma (serialiseStep_ma s) (serialiseStep_handed s)
  | flags hm h1 hq hw => exact hs.congr_ma hm (by rw [hq, hw])
  | post i f tmo hp hf hn hm hl =>
    exact hs.congr (.inl (by rw [hm]; rfl)) (by rw [hm]; rfl) (by rw [hm]; rfl) (by rw [hl])
  | grant i he ht => subst ht; exact grantStep_sentInOrder i hs
  | phase he ht => exact maStep_sentInOrder hs ht
  | abort he ht => subst ht; exact abortStep_sentInOrder hs
  | reset he hm => exact sentInOrder_of_idle (by rw [hm]; rfl)

/-- Finding the next event touches neither MA nor the line. -/
theorem nextEvent_ma (s : State) : (nextEvent s).2.ma = s.ma ∧ (nextEvent s).2.line = s.line := by
  unfold nextEvent
  split <;> exact ⟨rfl, rfl⟩

/-- Settles O39: the next event is taken off the agenda, which the order does not depend on, and its move keeps the order. -/
theorem stepKeepsSentInOrder : Obligations.StepKeepsSentInOrder := by
  intro s t hs h
  obtain ⟨hm, hl⟩ := nextEvent_ma s
  exact runEvent_sentInOrder (hs.congr_ma hm (by rw [hl])) h

end Sys2Proof.Machine
end

section
/-! What the pure operations do (spec/10_state.md R20, spec/20_memory.md R68 and R72): each is one of nine operations on the state,
reads and writes its own unit's registers only, and leaves what it left when it is repeated. -/

namespace Sys2Proof.Machine

/-! ### The operation behind the port -/

/-- What an operation of a unit does to the state, once its operands have been let through. -/
inductive PureOp (c : Params) : PureUnit → (State → State) → Prop where
  | xg (x : XGState) : PureOp c .xg (·.withXg x)
  | sg (x : SGState) : PureOp c .sg (·.withSg x)
  | fenc (sel : Nat) (p : List Byte) : PureOp c .fe (fencOp c sel p)
  | fparse (bs : List Byte) : PureOp c .fd (fparseOp c bs)
  | fdec (r : List Byte) : PureOp c .fd (fdecOp c r)
  | hexlify (bs : List Byte) : PureOp c .he (hexlifyOp c bs)
  | henc (w : Word32) : PureOp c .he (hencOp c w)
  | unhex (t : List Byte) : PureOp c .hd (unhexOp t)
  | hdec (t : List Byte) : PureOp c .hd (hdecOp t)

/-- A pure operation that completes from one state is let through in every state, for a port looks at the operands only
(R82), and does the same everywhere. -/
theorem exec_pureOp {i : Instr} {u : PureUnit} {s t : State} (hu : pureUnit i = some u) (h : exec i s = .next t) :
    ∃ f, PureOp Config.params u f ∧ ∀ x, exec i x = .next (f x) := by
  cases i
  -- the checksum units
  case xorsum bs => cases hu; exact ⟨_, .xg _, fun _ => rfl⟩
  case addsum bs => cases hu; exact ⟨_, .sg _, fun _ => rfl⟩
  case verify g bs k =>
    cases g with
    | false => cases hu; exact ⟨_, .xg _, fun _ => rfl⟩
    | true => cases hu; exact ⟨_, .sg _, fun _ => rfl⟩
  case xverify bs k => cases hu; exact ⟨_, .xg _, fun _ => rfl⟩
  case averify bs k => cases hu; exact ⟨_, .sg _, fun _ => rfl⟩
  -- the hex-frame units
  case hexlify bs => cases hu; exact ⟨_, .hexlify bs, fun _ => rfl⟩
  case henc w => cases hu; exact ⟨_, .henc w, fun _ => rfl⟩
  case unhex b => cases hu; exact ⟨_, .unhex b, fun _ => if_pos (next_of_guard h).1⟩
  case hdec b => cases hu; exact ⟨_, .hdec b, fun _ => if_pos (next_of_guard h).1⟩
  -- the decoder of audio frames
  case fparse bs => cases hu; exact ⟨_, .fparse bs, fun _ => if_pos (next_of_guard h).1⟩
  case fdec r => cases hu; exact ⟨_, .fdec r, fun _ => if_pos (next_of_guard h).1⟩
  -- XFER and the host sequences have no unit
  case xfer | getstate | randomplay | cmd | trigger | wserve | wdfeed => cases hu
  -- FENC, its fourteen forms and FENC.SELTRK16
  all_goals cases hu; exact ⟨_, .fenc _ _, fun _ => rfl⟩

/-! ### Different units (R72) -/

/-- `x` with the registers of unit `u` that `s` has. -/
def PureUnit.copy (u : PureUnit) (s x : State) : State :=
  match u with
  | .xg => x.withXg s.xg
  | .sg => x.withSg s.sg
  | .fe => x.withFe s.fe
  | .fd => x.withFd s.fd
  | .he => x.withHe s.he
  | .hd => x.withHd s.hd

/-- Nothing but the unit changed: the new state is the old one with the unit's new registers. -/
theorem onlyUnit_iff_copy {u : PureUnit} {s t : State} : OnlyUnit u s t ↔ t = u.copy t s := by
  cases u <;> exact Iff.rfl

/-- The registers of two units are put in place in either order. -/
theorem PureUnit.copy_comm {u v : PureUnit} (huv : u ≠ v) (s t x : State) :
    u.copy s (v.copy t x) = v.copy t (u.copy s x) := by
  cases u <;> cases v
  case xg.xg | sg.sg | fe.fe | fd.fd | he.he | hd.hd => exact absurd rfl huv
  all_goals rfl

/-- A state has its own registers. -/
theorem PureUnit.copy_self (u : PureUnit) (s : State) : u.copy s s = s := by cases u <;> rfl

/-- Where nothing but `v` changed, another unit's registers are the old ones. -/
theorem PureUnit.copy_of_onlyUnit {u v : PureUnit} (huv : u ≠ v) {s t : State} (h : OnlyUnit v s t) :
    u.copy s t = t :=
  calc u.copy s t = u.copy s (v.copy t s) := by rw [← onlyUnit_iff_copy.1 h]
    _ = v.copy t (u.copy s s) := PureUnit.copy_comm huv s t s
    _ = v.copy t s := by rw [PureUnit.copy_self]
    _ = t := (onlyUnit_iff_copy.1 h).symm

/-- An operation depends on its own unit's registers only (R20): on any other state with these registers it leaves the unit
as it leaves it here, and the rest of that state alone. -/
theorem PureOp.apply_copy {c : Params} {u : PureUnit} {f : State → State} (hf : PureOp c u f) (s x : State) :
    f (u.copy s x) = u.copy (f s) x := by
  cases hf with
  | xg | sg | hexlify | henc => rfl
  | fenc sel p =>
    cases h : fencFn c sel p with
    | error e => simp only [fencOp_error h]; rfl
    | ok b => simp only [fencOp_ok h]; rfl
  | fparse bs => unfold fparseOp; split <;> rfl
  | fdec r => unfold fdecOp; split <;> rfl
  | unhex t => unfold unhexOp; split <;> rfl
  | hdec t =>
    unfold hdecOp
    split
    · rfl
    · split <;> rfl

/-- After an operation of another unit a pure operation completes as before, and leaves its unit as it would have. -/
theorem exec_after_other {i : Instr} {u v : PureUnit} (huv : u ≠ v) {s t a : State} (hu : pureUnit i = some u)
    (h : exec i s = .next t) (ha : OnlyUnit v s a) : exec i a = .next (u.copy t a) := by
  obtain ⟨f, hf, hi⟩ := exec_pureOp hu h
  obtain rfl : f s = t := Host.Outcome.next.inj ((hi s).symm.trans h)
  rw [hi, ← hf.apply_copy, PureUnit.copy_of_onlyUnit huv ha]

/-- Settles O22: each operation completes after the other, and both orders end in the first state with the new registers of
both units. -/
theorem differentUnitsCommute : Obligations.DifferentUnitsCommute := by
  intro i j u v s a b hi hj huv ha hb
  have hua : OnlyUnit u s a := unitsArePrivate i u s a hi ha
  have hvb : OnlyUnit v s b := unitsArePrivate j v s b hj hb
  have hmeet : u.copy a b = v.copy b a :=
    calc u.copy a b = u.copy a (v.copy b s) := by rw [← onlyUnit_iff_copy.1 hvb]
      _ = v.copy b (u.copy a s) := PureUnit.copy_comm huv a b s
      _ = v.copy b a := by rw [← onlyUnit_iff_copy.1 hua]
  exact ⟨v.copy b a, exec_after_other huv.symm hj hb hua, hmeet ▸ exec_after_other huv hi ha hvb⟩

/-! ### The same operation again (R68) -/

/-- FENC twice is FENC once: a Frame is written over itself, and the bytes a failure leaves are those of its operands (log 9). -/
theorem fencOp_twice (c : Params) (sel : Nat) (p : List Byte) (s : State) :
    fencOp c sel p (fencOp c sel p s) = fencOp c sel p s := by
  cases h : fencFn c sel p with
  | error e => rw [fencOp_error h, fencOp_error h]
  | ok f => rw [fencOp_ok h, fencOp_ok h, List.drop_left]

/-- FPARSE twice is FPARSE once. -/
theorem fparseOp_twice (c : Params) (bs : List Byte) (s : State) :
    fparseOp c bs (fparseOp c bs s) = fparseOp c bs s := by
  cases h : fparseFn c bs with
  | error e => simp [fparseOp, h, loadRbuf, raiseErr, State.withFd]
  | ok v => simp [fparseOp, h, loadRbuf, clearErr, State.withFd]

/-- FDEC twice is FDEC once. -/
theorem fdecOp_twice (c : Params) (r : List Byte) (s : State) : fdecOp c r (fdecOp c r s) = fdecOp c r s := by
  rcases h : fdecFn c r with e | rest | v
  · simp [fdecOp, h, loadRbuf, raiseErr, State.withFd]
  · simp [fdecOp, h, loadRbuf, clearErr, State.withFd]
  · simp [fdecOp, h, loadRbuf, clearErr, State.withFd]

/-- HENC twice is HENC once. -/
theorem hencOp_twice (c : Params) (w : Word32) (s : State) : hencOp c w (hencOp c w s) = hencOp c w s := by
  simp [hencOp, State.withHe]

/-- UNHEX twice is UNHEX once. -/
theorem unhexOp_twice (t : List Byte) (s : State) : unhexOp t (unhexOp t s) = unhexOp t s := by
  cases h : unhexFn t with
  | error e => simp [unhexOp, h, loadTbuf, raiseErr, State.withHd]
  | ok bs => simp [unhexOp, h, loadTbuf, clearErr, writeScratch, State.withHd]

/-- HDEC twice is HDEC once. -/
theorem hdecOp_twice (t : List Byte) (s : State) : hdecOp t (hdecOp t s) = hdecOp t s := by
  cases h : unhexFn t with
  | error e => simp [hdecOp, h, loadTbuf, raiseErr, State.withHd]
  | ok bs =>
    cases hv : hdecBytes bs with
    | error e => simp [hdecOp, h, hv, loadTbuf, raiseErr, State.withHd]
    | ok v => simp [hdecOp, h, hv, loadTbuf, clearErr, writeScratch, setVerdict, State.withHd]

/-- An operation run on the state it left leaves it. -/
theorem PureOp.twice {c : Params} {u : PureUnit} {f : State → State} (hf : PureOp c u f) (s : State) :
    f (f s) = f s := by
  cases hf with
  | xg | sg | hexlify => rfl
  | fenc sel p => exact fencOp_twice c sel p s
  | fparse bs => exact fparseOp_twice c bs s
  | fdec r => exact fdecOp_twice c r s
  | henc w => exact hencOp_twice c w s
  | unhex t => exact unhexOp_twice t s
  | hdec t => exact hdecOp_twice t s

/-- Settles O23: the operation behind the port is let through again, and twice is once. -/
theorem pureOperationsIdempotent : Obligations.PureOperationsIdempotent := by
  intro i u s t hu h
  obtain ⟨f, hf, hi⟩ := exec_pureOp hu h
  obtain rfl : f s = t := Host.Outcome.next.inj ((hi s).symm.trans h)
  rw [hi, hf.twice]

end Sys2Proof.Machine
end

section
/-! Which steps cannot stop (spec/20_memory.md R81 and R82, spec/43_bus_arbiter.md R241): under the invariant MA's push is within
`TXFLEN`, the frames of the sequences fit `TXF`, and the responses they hand to FDEC fit `RBUF`. -/

namespace Sys2Proof.Machine

/-- What is within a capacity fits the buffer. -/
theorem fits_of_withinCap {cap : Option Nat} {x : List Byte} (h : withinCap cap x.length = true) : fits cap x = true :=
  Bool.or_eq_true_iff.2 (.inr h)

/-- Seven bytes, the longest Frame (R92), fit `TXF` under every choice of parameters that meets R8. -/
theorem fits_txfMax_of_le_seven {c : Params} (hc : c.valid = true) {f : List Byte} (hf : f.length ≤ 7) :
    fits c.txfMax f = true := by
  obtain ⟨-, -, -, -, -, -, -, htxf, -⟩ := valid_facts hc
  apply fits_of_withinCap
  cases hm : c.txfMax with
  | none => rfl
  | some m => exact decide_eq_true (hf.trans (htxf m hm))

/-- The write phase completes where `TXF` holds the `TXFLEN` bytes of the frame: a push is within the valid length (R81,
R229). -/
theorem writeStep_completes {s : State} (h : s.ma.txflen ≤ s.ma.txf.length) : ∃ t, writeStep s = .next t := by
  unfold writeStep
  split
  · next hi =>
    split
    · unfold pushStep
      rw [memRead_one hi h]
      exact ⟨_, rfl⟩
    · exact ⟨_, rfl⟩
  · split <;> exact ⟨_, rfl⟩

/-- MA's step completes in every phase (R242). -/
theorem maStep_completes (c : Params) {s : State} (h : s.ma.txflen ≤ s.ma.txf.length) : ∃ t, maStep c s = .next t := by
  cases e : s.ma.phase <;> simp only [maStep, e]
  case write => exact writeStep_completes h
  all_goals exact ⟨_, rfl⟩

/-- XFER in a sequence completes where nothing refuses the post (R223). -/
theorem postStep_completes {c : Params} {i : Nat} {f : List Byte} (tmo : Nat) (pc : HostPc) {s : State}
    (hport : portExists c i = true) (hfits : fits c.txfMax f = true) (hfree : (s.reqOf i).pending = false) :
    ∃ t, postStep c i f tmo pc s = .next t := by
  simp [postStep, post_eq hport hfits hfree]

/-- The end of XFER in a sequence completes where the response fits `RBUF` (R82). -/
theorem replyStep_completes {c : Params} {i : Nat} (k : Except Err Reply → State → State) {s : State}
    (h : fits c.respMax (s.resOf i).bytes = true) : ∃ t, replyStep c i k s = .next t := by
  unfold replyStep
  rw [if_pos h]
  split
  · exact ⟨_, rfl⟩
  · split <;> exact ⟨_, rfl⟩

/-- The next step of a sequence completes in a context that has a port, is not blocked, and has a frame of at most seven
bytes and a response that fits. -/
theorem contextStep_completes {c : Params} (hc : c.valid = true) {i : Nat} {s : State}
    (htask : s.taskOf i ≠ .idle → portExists c i = true ∧ (s.taskOf i).frame.length ≤ 7)
    (hresp : fits c.respMax (s.resOf i).bytes = true) (hfree : (s.reqOf i).pending = false) :
    ∃ t, contextStep c i s = .next t := by
  have hpost : ∀ {f : List Byte} (tmo : Nat) (pc : HostPc), s.taskOf i ≠ .idle → (s.taskOf i).frame = f →
      ∃ t, postStep c i f tmo pc s = .next t := by
    intro f tmo pc hne hf
    obtain ⟨hport, hlen⟩ := htask hne
    exact postStep_completes tmo pc hport (fits_txfMax_of_le_seven hc (hf ▸ hlen)) hfree
  cases e : s.taskOf i <;> simp only [contextStep, e]
  case cmdPost | gsPost | rqPost | rsPost => exact hpost _ _ (by simp [e]) (by rw [e]; rfl)
  case cmdWait | gsWait | rqWait | rsWait => exact replyStep_completes _ hresp
  all_goals exact ⟨_, rfl⟩

/-- Under the invariant a context's step completes. -/
theorem hostStep_completes {c : Params} (hc : c.valid = true) (i : Nat) {s : State} (hs : Inv c s) :
    ∃ t, hostStep c i s = .next t := by
  unfold hostStep
  split
  · next h =>
    obtain ⟨-, -, hresp⟩ := hs.slots_fit i
    have hfree : (s.reqOf i).pending = false := by simpa [State.blocked] using (Bool.and_eq_true_iff.1 h).2
    exact contextStep_completes hc (hs.task_port i) (fits_of_withinCap hresp) hfree
  · exact ⟨_, rfl⟩

/-- A step of WeightReplyService completes, when HDEC's text, if that is what comes next, fits `TBUF` (R82). -/
theorem serviceStep_completes {c : Params} {s : State}
    (h : ∀ x, s.host.service = .text x → fits c.txtMax x = true) : ∃ t, serviceStep c s = .next t := by
  unfold serviceStep
  split
  · cases e : s.host.service <;> simp only [serviceBody, e]
    case text x => rw [if_pos (h x e)]; exact ⟨_, rfl⟩
    all_goals exact ⟨_, rfl⟩
  · exact ⟨_, rfl⟩

/-- Settles O42: of the agents only MA, the contexts and WeightReplyService have steps that can stop, and what would stop them
the invariant rules out. -/
theorem agentsNeverStop : Obligations.AgentsNeverStop := by
  intro e s hs hop hread hserve
  cases e
  case op who => exact absurd rfl (hop who)
  case portRead who r => exact absurd rfl (hread who r)
  case hostStep i => exact hostStep_completes params_valid i hs
  case ma =>
    obtain ⟨-, -, -, -, htxf, -⟩ := (Memory.wf_iff _ s).1 hs.buffers
    exact maStep_completes _ htxf
  case serve => exact serviceStep_completes fun x hx => hserve x rfl hx
  all_goals exact ⟨_, rfl⟩

end Sys2Proof.Machine
end

section
/-! Reads of result ports (spec/20_memory.md R81, spec/70_reset_and_hazards.md R331; X1, X2, X5, X7): each guard of a port, open
and shut, and what a context's read makes of its answer. -/

namespace Sys2Proof.Machine

/-! ### The guards -/

/-- A read of a buffer within the valid length. -/
theorem bufferVal_of_le {buf : List Byte} {len a n : Nat} (h : a + n ≤ len) :
    bufferVal buf len a n = .ok (.bytes ((buf.drop a).take n)) := by
  rw [bufferVal, memRead_of_le h]

/-- A read of a buffer beyond the valid length. -/
theorem bufferVal_beyond {buf : List Byte} {len a n : Nat} (h : len < a + n) :
    bufferVal buf len a n = .error .readBeyondValid := by
  rw [bufferVal, memRead_beyond h]

/-- HE's buffers between HENC and HE's next operation (R26). -/
theorem replyBuffer_of_hexReply {s : State} {raw text : List Byte} (hv : s.he.hvalid = true)
    (ho : s.he.out = .hexReply raw text) (buf : List Byte) (len a n : Nat) :
    replyBuffer s buf len a n = bufferVal buf len a n := by
  simp [replyBuffer, hv, ho]

/-- HE's buffers before the first HENC (X1). -/
theorem replyBuffer_of_not_valid {s : State} (hv : s.he.hvalid = false) (buf : List Byte) (len a n : Nat) :
    replyBuffer s buf len a n = .error .readBeyondValid := by
  simp [replyBuffer, hv]

/-- HE's buffers once HE's next operation has started (X7). -/
theorem replyBuffer_of_stale {s : State} (hv : s.he.hvalid = true) (ho : ∀ raw text, s.he.out ≠ .hexReply raw text)
    (buf : List Byte) (len a n : Nat) : replyBuffer s buf len a n = .error .staleResult := by
  unfold replyBuffer
  rw [hv]
  split
  · contradiction
  · split
    · next raw text h => exact absurd h (ho raw text)
    · rfl

/-- An FD register whose kind `FD_KIND` names. -/
theorem fdRegister_of_kind {s : State} {k : FdKind} (h : s.fd.kind = k) (v : PortVal) : fdRegister s k v = .ok v :=
  if_pos h

/-- An FD register whose kind `FD_KIND` does not name (X2). -/
theorem fdRegister_of_ne {s : State} {k : FdKind} (h : s.fd.kind ≠ k) (v : PortVal) :
    fdRegister s k v = .error .registerNotValid :=
  if_neg h

/-- A result slot before its requester's next request. -/
theorem resField_of_not_pending {s : State} {i : Nat} (h : (s.reqOf i).pending = false) (v : PortVal) :
    resField s i v = .ok v := by
  simp [resField, State.blocked, h]

/-- A result slot while its requester's next request is pending (X7). -/
theorem resField_of_pending {s : State} {i : Nat} (h : (s.reqOf i).pending = true) (v : PortVal) :
    resField s i v = .error .staleResult := by
  simp [resField, State.blocked, h]

/-! ### The read -/

section

variable {who : Option Nat} {r : PortReg} {s : State}

/-- A context that is not blocked reads a register that exists: what the port answers is kept. -/
theorem runEvent_portRead_ok (hp : s.mayPresent who = true) (hr : slotExists Config.params r = true) {v : PortVal}
    (hv : readPort s r = .ok v) :
    runEvent (.portRead who r) s = .next { s with host := { s.host with readout := v } } := by
  simp [runEvent, agentStep, portReadStep, hp, hr, hv, State.withHost]

/-- The port faults. -/
theorem runEvent_portRead_error (hp : s.mayPresent who = true) (hr : slotExists Config.params r = true) {f : Fault}
    (hf : readPort s r = .error f) : runEvent (.portRead who r) s = .fault f := by
  simp [runEvent, agentStep, portReadStep, hp, hr, hf]

/-- There is no such register (R35). -/
theorem runEvent_portRead_refused (hp : s.mayPresent who = true) (hr : slotExists Config.params r = false) :
    runEvent (.portRead who r) s = .refused .noSuchRequester := by
  simp [runEvent, agentStep, portReadStep, hp, hr]

end

/-- Settles O55: each clause is a port whose guard is open, and so gives what it guards, or shut, and so faults; where there is
no slot the read is refused. -/
theorem portReadsWithinValid : Obligations.PortReadsWithinValid := by
  intro who a n i s hp gives faults
  have hgive : ∀ {r v}, slotExists Config.params r = true → readPort s r = .ok v → gives r v :=
    fun hr hv => runEvent_portRead_ok hp hr hv
  have hfault : ∀ {r f}, slotExists Config.params r = true → readPort s r = .error f → faults r f :=
    fun hr hf => runEvent_portRead_error hp hr hf
  simp only [List.forall_mem_cons, List.not_mem_nil, false_implies, implies_true, and_true]
  refine ⟨?fbuf, ?fbufBeyond, ?reply, ?noReply, ?fd, ?noSlot, ?slot, ?always⟩
  case fbuf => exact fun h => hgive rfl (bufferVal_of_le h)
  case fbufBeyond => exact fun h => hfault rfl (bufferVal_beyond h)
  case reply =>
    intro raw text hv ho
    have hopen := replyBuffer_of_hexReply hv ho
    exact ⟨fun h => hgive rfl ((hopen ..).trans (bufferVal_of_le h)),
      fun h => hfault rfl ((hopen ..).trans (bufferVal_beyond h)),
      fun h => hgive rfl ((hopen ..).trans (bufferVal_of_le h)),
      fun h => hfault rfl ((hopen ..).trans (bufferVal_beyond h))⟩
  case noReply =>
    exact ⟨⟨fun hv => hfault rfl (replyBuffer_of_not_valid hv ..), fun hv ho => hfault rfl (replyBuffer_of_stale hv ho ..)⟩,
      fun hv => hfault rfl (replyBuffer_of_not_valid hv ..), fun hv ho => hfault rfl (replyBuffer_of_stale hv ho ..)⟩
  case fd =>
    have hreg : ∀ {r k v}, slotExists Config.params r = true → readPort s r = fdRegister s k v →
        (s.fd.kind = k → gives r v) ∧ (s.fd.kind ≠ k → faults r .registerNotValid) := fun hr h =>
      ⟨fun hk => hgive hr (h.trans (fdRegister_of_kind hk _)), fun hk => hfault hr (h.trans (fdRegister_of_ne hk _))⟩
    exact ⟨hreg rfl rfl, hreg rfl rfl, hreg rfl rfl, hreg rfl rfl, hreg rfl rfl, hreg rfl rfl⟩
  case noSlot =>
    intro hi
    exact ⟨runEvent_portRead_refused hp hi, runEvent_portRead_refused hp hi, runEvent_portRead_refused hp hi,
      runEvent_portRead_refused hp hi⟩
  case slot =>
    intro hi
    have hfield : ∀ {r v}, slotExists Config.params r = true → readPort s r = resField s i v →
        ((s.reqOf i).pending = false → gives r v) ∧ ((s.reqOf i).pending = true → faults r .staleResult) := fun hr h =>
      ⟨fun hk => hgive hr (h.trans (resField_of_not_pending hk _)), fun hk => hfault hr (h.trans (resField_of_pending hk _))⟩
    exact ⟨hgive hi rfl, hfield hi rfl, hfield hi rfl, hfield hi rfl⟩
  case always =>
    exact ⟨hgive rfl rfl, hgive rfl rfl, hgive rfl rfl, hgive rfl rfl, hgive rfl rfl, hgive rfl rfl, hgive rfl rfl,
      hgive rfl rfl⟩

end Sys2Proof.Machine
end

section
/-! The readers of the command stream (log 2) and their writers: each reader answers exactly what its writer wrote. Numbers and
sequences have this law in both directions already; here are the fields of one, two and four bytes, and readers in sequence. -/

namespace Sys2Proof

open Machine

/-! ### Reading what was written -/

/-- A reader that has answered hands its answer on. -/
@[simp] theorem ok_bind {ε α β : Type} (a : α) (f : α → Except ε β) : (Except.ok a >>= f) = f a := rfl

@[simp] theorem decByte_cons (b : Byte) (rest : List Byte) : decByte (b :: rest) = .ok (b, rest) := rfl

@[simp] theorem decBit_cons (g : Bool) (rest : List Byte) : decBit ((if g then 1#8 else 0#8) :: rest) = .ok (g, rest) := by
  cases g <;> rfl

@[simp] theorem decSel_cons (o : BitVec 4) (rest : List Byte) : decSel (o.setWidth 8 :: rest) = .ok (o, rest) := by
  have ho := o.isLt
  have hb : (o.setWidth 8).toNat = o.toNat := by simp only [BitVec.toNat_setWidth]; omega
  rw [decSel, if_pos (by omega), hb, BitVec.ofNat_toNat, BitVec.setWidth_eq]

@[simp] theorem dec16_split16 (n : BitVec 16) (rest : List Byte) : dec16 (split16 n ++ rest) = .ok (n, rest) := by
  simp [split16, dec16]

@[simp] theorem dec32_split32 (w : Word32) (rest : List Byte) : dec32 (split32 w ++ rest) = .ok (w, rest) := by
  simp [split32, dec32]

/-! ### What is read was written so -/

/-- Readers in sequence answer what the last answers, if each of them answers. -/
theorem bind_eq_ok_iff {ε α β : Type} {x : Except ε α} {f : α → Except ε β} {b : β} :
    (x >>= f) = .ok b ↔ ∃ a, x = .ok a ∧ f a = .ok b := by
  cases x with
  | error e => exact ⟨nofun, nofun⟩
  | ok a => simp

theorem decNat_eq_ok_iff {bs rest : List Byte} {n : Nat} : decNat bs = .ok (n, rest) ↔ bs = encNat n ++ rest :=
  ⟨encNat_decNat, fun h => h ▸ decNat_encNat n rest⟩

theorem decSeq_eq_ok_iff {bs rest s : List Byte} : decSeq bs = .ok (s, rest) ↔ bs = encSeq s ++ rest :=
  ⟨encSeq_decSeq, fun h => h ▸ decSeq_encSeq s rest⟩

theorem decByte_eq_ok_iff {bs rest : List Byte} {k : Byte} : decByte bs = .ok (k, rest) ↔ bs = k :: rest := by
  cases bs <;> simp [decByte]

theorem decBit_eq_ok_iff {bs rest : List Byte} {g : Bool} :
    decBit bs = .ok (g, rest) ↔ bs = (if g then 1 else 0) :: rest := by
  refine ⟨fun h => ?_, fun h => h ▸ decBit_cons g rest⟩
  cases bs with
  | nil => cases h
  | cons b bs =>
    rw [decBit] at h
    split at h
    · cases h
      obtain h0 | h1 : b.toNat = 0 ∨ b.toNat = 1 := by omega
      · obtain rfl : b = 0 := BitVec.eq_of_toNat_eq h0
        rfl
      · obtain rfl : b = 1 := BitVec.eq_of_toNat_eq h1
        rfl
    · cases h

theorem decSel_eq_ok_iff {bs rest : List Byte} {o : BitVec 4} :
    decSel bs = .ok (o, rest) ↔ bs = o.setWidth 8 :: rest := by
  refine ⟨fun h => ?_, fun h => h ▸ decSel_cons o rest⟩
  cases bs with
  | nil => cases h
  | cons b bs =>
    rw [decSel] at h
    split at h
    · cases h
      congr 1
      apply BitVec.eq_of_toNat_eq
      simp only [BitVec.toNat_setWidth, BitVec.toNat_ofNat]
      omega
    · cases h

theorem dec16_eq_ok_iff {bs rest : List Byte} {n : BitVec 16} : dec16 bs = .ok (n, rest) ↔ bs = split16 n ++ rest := by
  refine ⟨fun h => ?_, fun h => h ▸ dec16_split16 n rest⟩
  unfold dec16 at h
  split at h
  · cases h; rw [split16_join16]; rfl
  · cases h

theorem dec32_eq_ok_iff {bs rest : List Byte} {w : Word32} : dec32 bs = .ok (w, rest) ↔ bs = split32 w ++ rest := by
  refine ⟨fun h => ?_, fun h => h ▸ dec32_split32 w rest⟩
  unfold dec32 at h
  split at h
  · cases h; rw [split32_join32]; rfl
  · cases h

end Sys2Proof
end

section
/-! The Frame patterns of the FENC forms (spec/30_encoding.md R91, R95, R121; log 3): the reader accepts a form's pattern and
nothing else. -/

namespace Sys2Proof

open Machine

/-- The rows that have a form are those of the catalogue (R104). -/
theorem lt_of_formOf {sel : Nat} {p : List Byte} {i : Instr} (h : formOf sel p = some i) : sel < 14 := by
  by_contra hge
  obtain ⟨k, rfl⟩ := Nat.exists_eq_add_of_le' (not_lt.1 hge)
  cases h

/-- A row's form is written as the pattern of the row. -/
theorem encodeIn_of_formOf (c : Params) {sel : Nat} {p : List Byte} {i : Instr} (h : formOf sel p = some i) :
    encodeIn c i = encForm c sel p := by
  have hlt := lt_of_formOf h
  interval_cases sel <;> cases h <;> rfl

/-- A pattern, part by part. -/
theorem encForm_append (c : Params) (sel : Nat) (p rest : List Byte) :
    encForm c sel p ++ rest = Config.startByte :: BitVec.ofNat 8 (3 + p.length) :: c.codes.getD sel 0
      :: (p ++ xorFold (BitVec.ofNat 8 (3 + p.length) :: c.codes.getD sel 0 :: p) :: Config.endByte :: rest) := by
  simp only [encForm, List.cons_append, List.append_assoc, List.nil_append]

/-- A list around its elements at `n` and `n + 1`. -/
theorem take_append_getD_getD_drop {l : List Byte} {n : Nat} (h : n + 2 ≤ l.length) :
    l.take n ++ l.getD n 0 :: l.getD (n + 1) 0 :: l.drop (n + 2) = l := by
  rw [List.getD_eq_getElem l 0 (by omega), List.getD_eq_getElem l 0 (by omega), ← List.drop_eq_getElem_cons,
    ← List.drop_eq_getElem_cons, List.take_append_drop]

/-- What the reader of patterns accepts after `START`: the LENGTH of the parameters, the code of a row, the parameters, the
checksum and `END`; and it answers that row's form. -/
theorem decFrame_eq_ok_iff {c : Params} {bs rest : List Byte} {i : Instr} :
    decFrame c bs = .ok (i, rest) ↔
      ∃ len cc sel p, bs = len :: cc :: (p ++ xorFold (len :: cc :: p) :: Config.endByte :: rest)
        ∧ len.toNat = 3 + p.length ∧ catIndex c cc = some sel ∧ formOf sel p = some i := by
  constructor
  · intro h
    unfold decFrame at h
    split at h
    · next len cc bs =>
      simp only at h
      split at h; · cases h
      split at h; · cases h
      split at h; · cases h
      split at h; · cases h
      next hlen hsize hend hsum =>
      split at h; · cases h
      next hform =>
      cases h
      obtain ⟨sel, hsel, hi⟩ := Option.bind_eq_some_iff.1 hform
      refine ⟨len, cc, sel, bs.take (len.toNat - 3), ?_, by simp; omega, hsel, hi⟩
      rw [Decidable.not_not.1 hsum, ← Decidable.not_not.1 hend, take_append_getD_getD_drop (by omega)]
    · cases h
  · rintro ⟨len, cc, sel, p, rfl, hlen, hsel, hi⟩
    have hn : len.toNat - 3 = p.length := by omega
    simp only [decFrame, hn, List.take_left, hsel, Option.bind_some, hi]
    rw [if_neg (by omega), if_neg (by simp), if_neg (by simp), if_neg (by simp)]
    simp

/-- A form's pattern is read as the form, if LENGTH can count its parameters: codes are pairwise distinct (R8). -/
theorem decodeOp_encForm {c : Params} (hc : c.valid = true) {sel : Nat} {p : List Byte} {i : Instr}
    (hi : formOf sel p = some i) (hp : Params.formFits p = true) (rest : List Byte) :
    decodeOp c (encForm c sel p ++ rest) = .ok (i, rest) := by
  have hlen : (BitVec.ofNat 8 (3 + p.length)).toNat = 3 + p.length := by
    have := of_decide_eq_true hp
    simp only [BitVec.toNat_ofNat]; omega
  have hcode : catIndex c (c.codes.getD sel 0) = some sel := by
    have hlt : sel < c.codes.length := lt_of_formOf hi
    exact catIndex_code hc (by simp [List.getD_eq_getElem?_getD, hlt])
  rw [encForm_append]
  exact decFrame_eq_ok_iff.2 ⟨_, _, sel, p, rfl, hlen, hcode, hi⟩

/-- A pattern that is read is the encoding of the form it is read as: the row a code is found at has that code. -/
theorem startByte_cons_of_decFrame {c : Params} (hc : c.valid = true) {bs rest : List Byte} {i : Instr}
    (h : decFrame c bs = .ok (i, rest)) : Config.startByte :: bs = encodeIn c i ++ rest := by
  obtain ⟨len, cc, sel, p, rfl, hlen, hsel, hi⟩ := decFrame_eq_ok_iff.1 h
  have hcode : c.codes.getD sel 0 = cc := by rw [List.getD_eq_getElem?_getD, code_of_catIndex hc hsel]; rfl
  have hlenByte : BitVec.ofNat 8 (3 + p.length) = len := by rw [← hlen, BitVec.ofNat_toNat, BitVec.setWidth_eq]
  rw [encodeIn_of_formOf c hi, encForm_append, hcode, hlenByte]

end Sys2Proof
end

section
/-! The decoder and the encoder (spec/30_encoding.md R95, R118, R121; log 2, log 3): each undoes the other, and so a placed table word
is the operation the next step runs (log 34). -/

namespace Sys2Proof

open Machine

/-- Reading what was written, for every operation whose operands its row allows. -/
theorem decodeOp_encodeIn {c : Params} (hc : c.valid = true) {i : Instr} (hi : i.wfIn c = true) (rest : List Byte) :
    decodeOp c (encodeIn c i ++ rest) = .ok (i, rest) := by
  cases i
  case fencPlay | fencPause | fencNext | fencPrev | fencVolup | fencVoldn | fencStandby | fencReset | fencStop
      | fencQstate | fencQqty | fencSetvol | fencSetloop | fencSeltrk =>
    exact decodeOp_encForm hc rfl hi rest
  -- the tagged rows: operand by operand, each reader undoes its writer
  all_goals simp [encodeIn, decodeOp]

/-- What is read was written so: after a tag, operand by operand; after `START`, as a Frame pattern. -/
theorem eq_encodeIn_of_decodeOp {c : Params} (hc : c.valid = true) {bs rest : List Byte} {i : Instr}
    (h : decodeOp c bs = .ok (i, rest)) : bs = encodeIn c i ++ rest := by
  cases bs with
  | nil => cases h
  | cons b bs =>
    obtain ⟨n, hn, rfl⟩ : ∃ n, (BitVec.ofNat 8 n).toNat = n ∧ b = BitVec.ofNat 8 n := ⟨b.toNat, by simp, by simp⟩
    rw [decodeOp, hn] at h
    split at h
    -- `START`, and the bytes that begin no operation
    case h_21 => exact startByte_cons_of_decFrame hc h
    case h_22 => cases h
    all_goals simp only [bind_eq_ok_iff, Prod.exists, decNat_eq_ok_iff, decSeq_eq_ok_iff, decByte_eq_ok_iff,
      decBit_eq_ok_iff, decSel_eq_ok_iff, dec16_eq_ok_iff, dec32_eq_ok_iff, Except.ok.injEq, Prod.mk.injEq] at h
    -- the tags, by the number of operands after them: none to four
    case h_14 | h_15 | h_16 =>
      obtain ⟨rfl, rfl⟩ := h
      rfl
    case h_1 | h_2 | h_5 | h_6 | h_7 | h_8 | h_9 | h_10 | h_19 =>
      obtain ⟨x, r, rfl, rfl, rfl⟩ := h
      rfl
    case h_4 | h_12 | h_17 | h_18 =>
      obtain ⟨x, r, rfl, y, r', rfl, rfl, rfl⟩ := h
      simp [encodeIn]
    case h_3 | h_11 | h_13 =>
      obtain ⟨x, r, rfl, y, r', rfl, z, r'', rfl, rfl, rfl⟩ := h
      simp [encodeIn]
    case h_20 =>
      obtain ⟨x, r, rfl, y, r', rfl, z, r'', rfl, w, r''', rfl, rfl, rfl⟩ := h
      simp [encodeIn]

/-- What the decoder accepts is what its rows read and their checks let through. -/
theorem decodeIn_eq_ok_iff {c : Params} {bs rest : List Byte} {i : Instr} :
    decodeIn c bs = .ok (i, rest) ↔ decodeOp c bs = .ok (i, rest) ∧ i.wfIn c = true := by
  constructor
  · intro h
    unfold decodeIn at h
    split at h
    · cases h
    · next hop =>
      split at h
      · next hwf => cases h; exact ⟨hop, hwf⟩
      · cases h
  · rintro ⟨hop, hwf⟩
    simp only [decodeIn, hop, hwf, if_true]

/-- Settles O56: the row reads what it wrote, and the check the operation meets lets it through. -/
theorem decodeEncodeRoundTrip : Obligations.DecodeEncodeRoundTrip := fun _ rest hi =>
  decodeIn_eq_ok_iff.2 ⟨decodeOp_encodeIn params_valid hi rest, hi⟩

/-- Settles O57: the check was met, and what the row read was written so. -/
theorem decodeIsCanonical : Obligations.DecodeIsCanonical := fun _ _ _ h =>
  have ⟨hop, hwf⟩ := decodeIn_eq_ok_iff.1 h
  ⟨hwf, eq_encodeIn_of_decodeOp params_valid hop⟩

/-- Settles O58: the decoder run on the twelve words; their codes and numbers ask nothing of the parameters. -/
theorem specWordsDecode : Obligations.SpecWordsDecode :=
  ⟨rfl, rfl, rfl, rfl, rfl, rfl, rfl, rfl, rfl, rfl, rfl, rfl⟩

/-- The bytes a table word is placed as are the encoding of the operation it decodes to. -/
theorem tableOperation_eq_encode {nbits w : Nat} {i : Instr} (h : decodeTableWord nbits w = some i) :
    i.wf = true ∧ tableOperation nbits w = encode i := by
  unfold decodeTableWord at h
  split at h
  · next rest hd =>
    cases h
    obtain ⟨hwf, hbytes⟩ := decodeIsCanonical _ _ _ hd
    refine ⟨hwf, ?_⟩
    simp only [tableOperation, hd]
    rw [hbytes]
    simp
  · cases h

/-- Settles O60: the placed bytes decode to the operation and leave the stream as it was; the step takes both off again. -/
theorem fetchWordRunsItsOperation : Obligations.FetchWordRunsItsOperation := by
  intro s nbits w i h
  obtain ⟨hwf, hbytes⟩ := tableOperation_eq_encode h
  have hd : decode (s.withFetchWord nbits w).cmds = .ok (i, s.cmds) := by
    show decode (tableOperation nbits w ++ s.cmds) = _
    rw [hbytes]
    exact decodeEncodeRoundTrip i s.cmds hwf
  exact (stepRunsDecodedOperation.1 _ s.agenda none i s.cmds rfl hd).1 rfl rfl rfl

end Sys2Proof
end

section
/-! How CMD and GETSTATE end (spec/30_encoding.md R120, spec/44_host_sequences.md R261, R262): what follows a valid result is the
sequence's own reading of it. -/

namespace Sys2Proof.Machine

/-- The event of a context's step, for a context that may run and is not blocked (R223, R273). -/
theorem runEvent_hostStep {i : Nat} {s : State} (hm : s.mayRun Config.params i = true)
    (hp : (s.reqOf i).pending = false) : runEvent (.hostStep i) s = contextStep Config.params i s :=
  hostStep_of_mayRun hm hp

/-! ### The end of XFER -/

section

variable {c : Params} {i : Nat} {s : State} (k : Except Err Reply → State → State)

/-- A transport fault is passed on, and FDEC is not asked (R262). -/
theorem replyStep_of_transportFault (hv : (s.resOf i).valid = true) (hf : (s.resOf i).err = .transportFault) :
    replyStep c i k s = .next (k (.error ⟨.transportFault, .none⟩) s) := by
  simp [replyStep, hv, hf]

/-- Without one, FDEC decodes what XFER returned. -/
theorem replyStep_of_reply (hv : (s.resOf i).valid = true) (hf : (s.resOf i).err ≠ .transportFault)
    (hfit : fits c.respMax (s.resOf i).bytes = true) :
    replyStep c i k s = .next (k (fdecFn c (s.resOf i).bytes) (fdecOp c (s.resOf i).bytes s)) := by
  simp [replyStep, hv, hf, hfit]

end

/-- FDEC touches neither MA nor the line (R20). -/
theorem fdecOp_ma (c : Params) (r : List Byte) (s : State) :
    (fdecOp c r s).ma = s.ma ∧ (fdecOp c r s).line = s.line := by
  rw [fdecOp_only c r s]
  exact ⟨rfl, rfl⟩

/-! ### The end of a sequence -/

@[simp] theorem finishSeq_taskOf_same (c : Params) (trig : Bool) (i : Nat) (r : HostResult) (s : State) :
    (finishSeq c trig i r s).taskOf i = if trig then .trigExit else .idle :=
  State.setTask_taskOf_same ..

@[simp] theorem finishSeq_resultOf_same (c : Params) (trig : Bool) (i : Nat) (r : HostResult) (s : State) :
    (finishSeq c trig i r s).resultOf i = r :=
  State.setResult_resultOf_same ..

/-- The result a context is left with by GETSTATE's reading of a reply. -/
def playStateResult : Except Err PlayState → HostResult
  | .error e => .err e
  | .ok p => .playState p

/-- Outside TRIGGER, GETSTATE ends with its reading of the reply (R262). -/
theorem stateEnd_alone (c : Params) (i tmo : Nat) (y : Except Err Reply) (s : State) :
    stateEnd c false i tmo y s = finishSeq c false i (playStateResult (stateResult y)) s := by
  unfold stateEnd
  split <;> simp [playStateResult, *]

/-- Above 4 there is no PlayState (R261). -/
theorem playStateOf_eq_none {v : Nat} (h : 4 < v) : playStateOf v = none := by
  obtain ⟨k, rfl⟩ := Nat.exists_eq_add_of_le' h
  rfl

/-- Settles O50: the sequence ends with its reading of the transport fault or of FDEC's answer, whichever the result is. -/
theorem cmdAndGetstateEnd : Obligations.CmdAndGetstateEnd := by
  intro i tmo s hv hp hm y ends
  have hstep := runEvent_hostStep hm hp
  have hends : ∀ {r : HostResult} {u : State}, u.ma = s.ma ∧ u.line = s.line →
      contextStep Config.params i s = .next (finishSeq Config.params false i r u) → ends r := fun ⟨hma, hline⟩ h =>
    ⟨_, hstep.trans h, finishSeq_taskOf_same .., finishSeq_resultOf_same .., hma, hline⟩
  have hfd := fdecOp_ma Config.params (s.resOf i).bytes s
  constructor
  · intro ht
    have hreply : contextStep Config.params i s
        = replyStep Config.params i (fun y s => finishSeq Config.params false i (replyResult y) s) s := by
      simp only [contextStep, ht]
    refine ⟨fun hf => hends ⟨rfl, rfl⟩ (hreply.trans (replyStep_of_transportFault _ hv hf)), fun hf hfit => ?_⟩
    have hdecoded : ∀ {x}, y = x → ends (replyResult x) := fun hx =>
      hx ▸ hends hfd (hreply.trans (replyStep_of_reply _ hv hf hfit))
    exact ⟨fun e h => hdecoded h, fun r h => hdecoded h⟩
  · intro ht
    have hreply : contextStep Config.params i s = replyStep Config.params i
        (fun y s => finishSeq Config.params false i (playStateResult (stateResult y)) s) s := by
      simp only [contextStep, ht, ← stateEnd_alone _ i tmo]
    refine ⟨fun hf => hends ⟨rfl, rfl⟩ (hreply.trans (replyStep_of_transportFault _ hv hf)), fun hf hfit => ?_⟩
    have hdecoded : ∀ {x}, y = x → ends (playStateResult (stateResult x)) := fun hx =>
      hx ▸ hends hfd (hreply.trans (replyStep_of_reply _ hv hf hfit))
    refine ⟨fun e h => hdecoded h, fun rest h => hdecoded h, fun h => hdecoded h, fun h => hdecoded h, fun h => hdecoded h,
      fun h => hdecoded h, fun h => hdecoded h, fun v hlt h => ?_⟩
    have hshape := hdecoded h
    rwa [stateResult, playStateOf_eq_none hlt] at hshape

end Sys2Proof.Machine
end

section
/-! How CMD, GETSTATE and RANDOMPLAY begin (spec/30_encoding.md R120, spec/44_host_sequences.md R262, R263, R273): FENC, at once or,
when the context may not run, with its next step. -/

namespace Sys2Proof.Machine

/-! ### A context that is asked for a sequence -/

/-- A requester of the machine has a port (R221). -/
theorem portExists_of_lt {c : Params} {i : Nat} (h : i < c.nReq) : portExists c i = true := by
  simp [portExists, Params.hasPort, h]

section

variable {c : Params} {i : Nat} {s : State} (hport : i < c.nReq) (hp : (s.reqOf i).pending = false)
  (ht : s.taskOf i = .idle)
include hport hp ht

/-- One that is free and may run takes the first step. -/
theorem startCall_of_mayRun (call : HostCall) (hm : s.mayRun c i = true) :
    startCall c i call s = .next (beginCall c i call s) := by
  simp [startCall, portExists_of_lt hport, State.ctxFree, State.blocked, hp, ht, hm]

/-- One that is free and may not run is made ready. -/
theorem startCall_of_not_mayRun (call : HostCall) (hm : s.mayRun c i = false) :
    startCall c i call s = .next ((s.setResult i .none).setTask c i (.ready call)) := by
  simp [startCall, portExists_of_lt hport, State.ctxFree, State.blocked, hp, ht, hm]

end

/-- A task that may not run is not the one that has not come to its wait point, so making it ready takes the processor from
no task (R273). -/
theorem processorAfter_ready {c : Params} {i : Nat} {s : State} (hm : s.mayRun c i = false) (call : HostCall) :
    processorAfter c i (.ready call) s.host.running = s.host.running := by
  unfold processorAfter
  split
  · rfl
  · next hi =>
    have hne : s.host.running ≠ some (.requester i) := by
      intro hr
      have : s.mayRun c i = true := by
        rw [State.mayRun_task hi, State.processor, hr]
        by_cases hb : s.blocked i = true <;> simp [hb]
      simp [hm] at this
    simp [schedule, HostPc.waits, hne]

/-- A task that comes to a point where it does not wait has the processor; the trigger handler's context holds no task up. -/
theorem processorAfter_of_not_waits {c : Params} {i : Nat} {pc : HostPc} (hw : pc.waits = false)
    (r : Option HostTask) : processorAfter c i pc r = if i = c.trigReq then r else some (.requester i) := by
  simp [processorAfter, schedule, hw]

/-! ### The first step -/

/-- FENC of a row without parameters builds five bytes (R92, R95). -/
theorem fencFn_query {c : Params} {sel : Nat} {code : Byte} {kind : CatKind} {d : String}
    (h : catEntry c sel = some ⟨code, kind, 0, d⟩) :
    fencFn c sel [] = .ok [0x7E, 0x03, code, 0x03 ^^^ code, 0xEF] := by
  simp [fencFn, h, Config.startByte, Config.endByte]

/-- FENC leaves the host (R20). -/
@[simp] theorem fencOp_host (c : Params) (sel : Nat) (p : List Byte) (s : State) :
    (fencOp c sel p s).host = s.host := by
  rw [fencOp_only c sel p s]

@[simp] theorem fencOp_taskOf (c : Params) (sel : Nat) (p : List Byte) (s : State) (j : Nat) :
    (fencOp c sel p s).taskOf j = s.taskOf j := by
  rw [State.taskOf, fencOp_host, State.taskOf]

@[simp] theorem fencOp_resultOf (c : Params) (sel : Nat) (p : List Byte) (s : State) (j : Nat) :
    (fencOp c sel p s).resultOf j = s.resultOf j := by
  rw [State.resultOf, fencOp_host, State.resultOf]

section

variable {c : Params} {sel : Nat} {p : List Byte} (trig : Bool) (i : Nat) (pc : List Byte → HostPc) (s : State)

theorem buildStep_ok {f : List Byte} (h : fencFn c sel p = .ok f) :
    buildStep c trig i sel p pc s = (fencOp c sel p s).setTask c i (pc f) := by
  simp only [buildStep, h]

theorem buildStep_error {e : Err} (h : fencFn c sel p = .error e) :
    buildStep c trig i sel p pc s = finishSeq c trig i (.err e) (fencOp c sel p s) := by
  simp only [buildStep, h]

end

/-- Settles O48: asked for when the context may run, or made ready and now running, a sequence's first step is FENC; a Frame leads
to the point before XFER, an error to the sequence's end. -/
theorem sequencesBeginWithFenc : Obligations.SequencesBeginWithFenc := by
  intro i tmo n op p s hport hp query othersKeep begun begins
  have hbegins : ∀ {o call} {first : State → Prop}, exec o s = startCall Config.params i call s →
      first (beginCall Config.params i call s) → begins o call first := by
    intro o call first ho hfirst
    refine ⟨fun ht hm => ⟨_, ho.trans (startCall_of_mayRun hport hp ht call hm), hfirst⟩, fun ht hm => ?_, fun ht hm => ?_⟩
    · refine ⟨_, ho.trans (startCall_of_not_mayRun hport hp ht call hm), State.setTask_taskOf_same ..,
        State.setResult_resultOf_same .., fun j hj => by simp [State.setTask_taskOf, State.setResult_resultOf, hj], ?_⟩
      have hrun := processorAfter_ready hm call
      simp [State.setTask, State.setResult, State.withHost, hrun]
    · refine ⟨_, (runEvent_hostStep hm hp).trans ?_, hfirst⟩
      simp only [contextStep, ht]
  have hbuilt : ∀ {sel q f} {pc : List Byte → HostPc}, fencFn Config.params sel q = .ok f → (pc f).waits = false →
      begun f (pc f) (buildStep Config.params false i sel q pc (s.setResult i .none)) := by
    intro sel q f pc hf hw
    have hrun := processorAfter_of_not_waits (c := Config.params) (i := i) hw
    rw [buildStep_ok _ _ _ _ hf]
    refine ⟨by simp, by simp, fun j hj => by simp [State.setTask_taskOf, State.setResult_resultOf, hj], ?_, ?_, ?_⟩
    · exact fun hi => (hrun _).trans (if_neg hi)
    · exact fun hi => ((hrun _).trans (if_pos hi)).trans (by rw [fencOp_host]; rfl)
    · rw [fencOp_ok hf]; rfl
  refine ⟨hbegins rfl (hbuilt (fencFn_query rfl) rfl), hbegins rfl (hbuilt (fencFn_query rfl) rfl),
    fun f hf => hbegins rfl (hbuilt hf rfl), fun e he => hbegins rfl ?_⟩
  have hended : beginCall Config.params i (.cmd op p tmo) s
      = finishSeq Config.params false i (.err e) (fencOp Config.params op.toNat p (s.setResult i .none)) :=
    buildStep_error _ _ _ _ he
  rw [hended]
  refine ⟨finishSeq_taskOf_same .., finishSeq_resultOf_same .., ?_, ?_, ?_, ?_,
    fun j hj => by simp [finishSeq, State.setTask_taskOf, State.setResult_resultOf, hj]⟩
  all_goals rw [fencOp_error he]; rfl

end Sys2Proof.Machine
end

section
/-! The checksum units XG and SG (spec/40_checksum.md): the two folds' laws (R131, R132, R135, R136), VERIFY (R139, R140),
and the micro-steps, which reach what the whole operation reaches (R133, R137). -/

namespace Sys2Proof.Machine

/-! ### What the folds compute -/

/-- A bit of the exclusive-or fold is the parity of that bit over the sequence (R131). -/
theorem getLsbD_xorFold (bs : List Byte) (k : Nat) :
    (xorFold bs).getLsbD k = decide ((bs.filter fun x => x.getLsbD k).length % 2 = 1) := by
  induction bs with
  | nil => simp
  | cons b bs ih =>
    rw [xorFold_cons, BitVec.getLsbD_xor, ih]
    cases hb : b.getLsbD k with
    | false => simp [hb]
    | true =>
      simp only [hb, List.filter_cons_of_pos, List.length_cons, Bool.true_xor, ← decide_not, decide_eq_decide]
      omega

/-- Settles O1: the byte XORSUM writes is the exclusive-or fold, bit by bit a parity. -/
theorem xorsumIsBitwiseParity : Obligations.XorsumIsBitwiseParity :=
  fun bs _ => ⟨xorFold bs, rfl, fun k _ => getLsbD_xorFold bs k⟩

/-- Settles O3: the byte ADDSUM writes is the sum fold, the exact sum modulo 256. -/
theorem addsumIsSumMod256 : Obligations.AddsumIsSumMod256 :=
  fun bs _ => ⟨addFold bs, rfl, addFold_toNat bs⟩

/-! ### The laws of the folds -/

/-- The exclusive-or fold does not depend on the order of the bytes (R132). -/
theorem xorFold_perm {a b : List Byte} (h : a.Perm b) : xorFold a = xorFold b :=
  h.foldl_eq' (fun x _ y _ z => by rw [BitVec.xor_assoc, BitVec.xor_comm x, BitVec.xor_assoc]) 0

/-- The sum does not depend on the order of the bytes (R136). -/
theorem addFold_perm {a b : List Byte} (h : a.Perm b) : addFold a = addFold b :=
  BitVec.eq_of_toNat_eq (by rw [addFold_toNat, addFold_toNat, (h.map _).sum_eq])

/-- Folding with an operation that zero leaves alone, zero bytes may be left out (R132, R136). -/
theorem foldl_filter_ne_zero {f : Byte → Byte → Byte} (h : ∀ a, f a 0 = a) (s : List Byte) (a : Byte) :
    (s.filter fun b => b != 0).foldl f a = s.foldl f a := by
  have hskip : (fun x y => if (y != 0) = true then f x y else x) = f := by
    funext x y
    split
    · rfl
    · next hy => rw [show y = 0 by simpa using hy, h]
  rw [List.foldl_filter, hskip]

/-- A sequence followed by its own sum sums to twice that sum (R136): unlike the exclusive-or, not to zero. -/
theorem addFold_append_self_toNat (s : List Byte) :
    (addFold (s ++ [addFold s])).toNat = (2 * (addFold s).toNat) % 256 := by
  simp [BitVec.toNat_add, Nat.two_mul]

/-- 256 bytes `FF` wrap around to zero (R136). -/
theorem addFold_replicate_256 : addFold (List.replicate 256 0xFF) = 0x00 :=
  BitVec.eq_of_toNat_eq (by rw [addFold_toNat, List.map_replicate, List.sum_replicate]; rfl)

/-- Settles O2: R132 (a) to (g), then R136 (a) to (h). -/
theorem foldLaws : Obligations.FoldLaws :=
  ⟨⟨xorFold_nil, fun b => by simp, fun _ _ => xorFold_perm, xorFold_append, fun b => by simp, xorFold_append_self,
      fun s => foldl_filter_ne_zero (fun _ => BitVec.xor_zero) s 0⟩,
    addFold_nil, fun b => by simp, fun _ _ => addFold_perm, fun a b => by rw [addFold_append, BitVec.toNat_add],
    by decide, by decide, by decide, addFold_replicate_256, addFold_toNat,
    fun s => foldl_filter_ne_zero BitVec.add_zero s 0, addFold_append_self_toNat⟩

/-! ### VERIFY -/

/-- Settles O4: VERIFY, and the pseudo-operation of its strategy, write the strategy's fold and the comparison. -/
theorem verifyRecomputesAndCompares : Obligations.VerifyRecomputesAndCompares := by
  intro bs k s
  constructor <;> intro i hi
  · refine ⟨xorFold bs, ?_, rfl⟩
    obtain rfl | rfl := List.mem_pair.1 hi <;> rfl
  · refine ⟨addFold bs, ?_, rfl⟩
    obtain rfl | rfl := List.mem_pair.1 hi <;> rfl

theorem verifies_iff {g : Bool} {s : List Byte} {c : Byte} : verifies g s c = true ↔ foldOf g s = c := beq_iff_eq

theorem verifies_eq_false_iff {g : Bool} {s : List Byte} {c : Byte} : verifies g s c = false ↔ foldOf g s ≠ c :=
  beq_eq_false_iff_ne

/-- Either fold changes when one byte of the range does: it changes by the difference of the two bytes, which is not zero. -/
theorem foldOf_set_ne (g : Bool) {s : List Byte} {i : Nat} (h : i < s.length) {b : Byte} (hb : b ≠ s[i]) :
    foldOf g (s.set i b) ≠ foldOf g s := by
  intro he
  apply hb
  cases g with
  | false =>
    have hxor : xorFold s ^^^ s[i] ^^^ b = xorFold s := xorFold_set s i h b ▸ he
    rw [BitVec.xor_assoc] at hxor
    have hzero : s[i] ^^^ b = 0 := by simpa using hxor
    exact (BitVec.xor_eq_zero_iff.1 hzero).symm
  | true =>
    have hadd : addFold s - s[i] + b = addFold s := addFold_set s i h b ▸ he
    bv_omega

/-- Flipping a bit changes a byte. -/
theorem xor_twoPow_ne (b : Byte) {k : Nat} (hk : k < 8) : b ^^^ BitVec.twoPow 8 k ≠ b := by
  intro he
  have hbit := congrArg (·.getLsbD k) he
  simp [hk] at hbit

/-- Settles O5: a flipped bit changes the fold of the range, or the byte it is compared with, and not both; the range `00`
with expected byte `01` shows that from false either answer can follow. -/
theorem singleBitCorruptionDetected : Obligations.SingleBitCorruptionDetected := by
  intro g
  refine ⟨fun bs => ⟨verifies_iff.2 rfl, fun c hc => ?_⟩, [0x00], 0x01, ?_⟩
  · obtain rfl := verifies_iff.1 hc
    refine ⟨fun i hi k hk => verifies_eq_false_iff.2 (foldOf_set_ne g hi ?_),
      fun k hk => verifies_eq_false_iff.2 (xor_twoPow_ne _ hk).symm⟩
    rw [List.getD_eq_getElem _ _ hi]
    exact xor_twoPow_ne _ hk
  · cases g <;> decide

/-! ### Streaming -/

/-- An event that completes is followed by the rest of the run. -/
theorem runEvents_cons_of_next {e : Ev} {s t : State} (h : runEvent e s = .next t) (es : List Ev) :
    runEvents (e :: es) s = runEvents es t := by
  simp only [runEvents, h]

/-- Absorbing a sequence byte by byte is one left fold into the accumulator, `withAcc` being the state as a function of the
accumulator's value. -/
theorem runEvents_absorb {absorb : Byte → Ev} {withAcc : Byte → State} {comb : Byte → Byte → Byte}
    (h : ∀ a b, runEvent (absorb b) (withAcc a) = .next (withAcc (comb a b))) (bs : List Byte) (es : List Ev) (a : Byte) :
    runEvents (bs.map absorb ++ es) (withAcc a) = runEvents es (withAcc (bs.foldl comb a)) := by
  induction bs generalizing a with
  | nil => rfl
  | cons b bs ih => exact (runEvents_cons_of_next (h a b) _).trans (ih _)

/-- XG: clear, absorb each byte, read is XORSUM (R133). -/
theorem runEvents_xgMicro (bs : List Byte) (s : State) :
    runEvents (.xgMicro .clear :: bs.map (fun x => Ev.xgMicro (.absorb x)) ++ [.xgMicro .read]) s
      = exec (.xorsum bs) s :=
  runEvents_absorb (withAcc := fun a => s.withXg ⟨a, s.xg.out⟩) (fun _ _ => rfl) bs [.xgMicro .read] 0

/-- SG: clear, absorb each byte, read is ADDSUM (R137). -/
theorem runEvents_sgMicro (bs : List Byte) (s : State) :
    runEvents (.sgMicro .clear :: bs.map (fun x => Ev.sgMicro (.absorb x)) ++ [.sgMicro .read]) s
      = exec (.addsum bs) s :=
  runEvents_absorb (withAcc := fun a => s.withSg ⟨a, s.sg.out⟩) (fun _ _ => rfl) bs [.sgMicro .read] 0

/-- Settles O6: each micro-step is its equation, and a streamed sequence is the fold of the whole operation. -/
theorem streamingEqualsWholeSequence : Obligations.StreamingEqualsWholeSequence :=
  fun bs _ s => ⟨⟨rfl, rfl, rfl, rfl, runEvents_xgMicro bs s⟩, rfl, rfl, rfl, rfl, runEvents_sgMicro bs s⟩

end Sys2Proof.Machine
end

section
/-! FENC and its fourteen forms (spec/41_frame_binary.md R151 to R169): the Frame of a row written out part by part, its laws,
and what FENC of a row builds or refuses. -/

namespace Sys2Proof.Machine

/-! ### Frames (R91, R92, R95, R154) -/

/-- The number of parameters of a catalogue row (R104). -/
def arityOf (sel : Nat) : Nat := [0, 0, 0, 0, 0, 0, 0, 0, 0, 0, 0, 1, 1, 2].getD sel 0

/-- The Frame of a command code and parameters: START, LENGTH, CMD, the parameters, the checksum of LENGTH to the last
parameter, END (R91, R95). -/
def frameBytes (code : Byte) (p : List Byte) : List Byte :=
  0x7E :: BitVec.ofNat 8 (3 + p.length) :: code :: (p ++ [xorFold (BitVec.ofNat 8 (3 + p.length) :: code :: p), 0xEF])

/-- What FENC builds, and of which operands. -/
theorem fencFn_eq_ok_iff {c : Params} {sel : Nat} {p f : List Byte} :
    fencFn c sel p = .ok f ↔ sel ≤ 13 ∧ p.length = arityOf sel ∧ f = frameBytes (c.codes.getD sel 0) p := by
  constructor
  · intro h
    obtain ⟨hs, hp, hf⟩ := fencFn_ok h
    exact ⟨by omega, hp, hf⟩
  · rintro ⟨hs, hp, rfl⟩
    rw [fencFn_eq, if_neg (by omega)]
    exact if_neg (not_not.2 hp)

/-- A row refuses another number of parameters (R153). -/
theorem fencFn_wrong_count {c : Params} {sel : Nat} {p : List Byte} (hs : sel ≤ 13) (hp : p.length ≠ arityOf sel) :
    fencFn c sel p = .error ⟨.paramCount, .selCount sel p.length⟩ := by
  rw [fencFn_eq, if_neg (by omega)]
  exact if_pos hp

/-- Beyond the catalogue FENC does not look at the parameters (R152). -/
theorem fencFn_no_row {c : Params} {sel : Nat} (p : List Byte) (hs : 13 < sel) :
    fencFn c sel p = .error ⟨.unknownOpcode, .sel sel⟩ := by
  rw [fencFn_eq, if_pos (by omega)]

section

variable (code : Byte) (p : List Byte)

@[simp] theorem frameBytes_length : (frameBytes code p).length = 5 + p.length := by
  simp [frameBytes]
  omega

theorem frameBytes_getD_one : (frameBytes code p).getD 1 0 = BitVec.ofNat 8 (3 + p.length) := rfl

/-- LENGTH counts itself, CMD and the parameters, as long as a byte can. -/
theorem frameBytes_len (hp : p.length ≤ 252) : ((frameBytes code p).getD 1 0).toNat = 3 + p.length := by
  rw [frameBytes_getD_one, BitVec.toNat_ofNat]
  omega

theorem frameBytes_getD_two : (frameBytes code p).getD 2 0 = code := rfl

@[simp] theorem frameBytes_params : ((frameBytes code p).drop 3).take p.length = p := by
  simp [frameBytes]

/-- The checked range: LENGTH, CMD and the parameters. -/
theorem frameBytes_range :
    ((frameBytes code p).drop 1).take (2 + p.length) = BitVec.ofNat 8 (3 + p.length) :: code :: p := by
  simp [frameBytes, Nat.add_comm 2]

theorem frameBytes_checksum :
    (frameBytes code p).getD (3 + p.length) 0 = xorFold (((frameBytes code p).drop 1).take (2 + p.length)) := by
  rw [frameBytes_range]
  simp [frameBytes, Nat.add_comm 3]

theorem frameBytes_end : (frameBytes code p).getD (4 + p.length) 0 = 0xEF := by
  simp [frameBytes, Nat.add_comm 4]

/-- The range with its checksum folds to zero. -/
theorem frameBytes_xorFold : xorFold (((frameBytes code p).drop 1).take (3 + p.length)) = 0 := by
  have h : ((frameBytes code p).drop 1).take (3 + p.length)
      = (BitVec.ofNat 8 (3 + p.length) :: code :: p) ++ [xorFold (BitVec.ofNat 8 (3 + p.length) :: code :: p)] := by
    simp [frameBytes, Nat.add_comm 3, List.take_append]
  rw [h, xorFold_append_self]

end

theorem frameBytes_nil (code : Byte) : frameBytes code [] = [0x7E, 0x03, code, 0x03 ^^^ code, 0xEF] := by
  simp [frameBytes]

theorem frameBytes_one (code p0 : Byte) :
    frameBytes code [p0] = [0x7E, 0x04, code, p0, 0x04 ^^^ code ^^^ p0, 0xEF] := by
  simp [frameBytes, BitVec.xor_assoc]

theorem frameBytes_two (code p0 p1 : Byte) :
    frameBytes code [p0, p1] = [0x7E, 0x05, code, p0, p1, 0x05 ^^^ code ^^^ p0 ^^^ p1, 0xEF] := by
  simp [frameBytes, BitVec.xor_assoc]

/-- A Frame comes from one code and one parameter sequence. -/
theorem frameBytes_inj {code code' : Byte} {p p' : List Byte} (h : frameBytes code p = frameBytes code' p') :
    code = code' ∧ p = p' := by
  have hl : p.length = p'.length := by simpa using congrArg List.length h
  refine ⟨congrArg (·.getD 2 0) h, ?_⟩
  rw [← frameBytes_params code p, h, hl, frameBytes_params]

/-- The code FENC puts into a Frame is that of its row. -/
theorem codes_getElem?_of_le {c : Params} {sel : Nat} (hs : sel ≤ 13) : c.codes[sel]? = some (c.codes.getD sel 0) := by
  have hl : sel < c.codes.length := Nat.lt_succ_of_le hs
  rw [List.getD_eq_getElem _ _ hl, List.getElem?_eq_getElem hl]

/-- Settles O11: the Frame's parts one by one; and since no two rows have one code (R8), the code names the row. -/
theorem fencFrameLaws : Obligations.FencFrameLaws := by
  refine ⟨fun sel p f h => ?_, fun sel sel' p p' f h h' => ?_⟩
  · obtain ⟨hs, hp, rfl⟩ := fencFn_eq_ok_iff.1 h
    have hle : p.length ≤ 2 := hp ▸ arity_le sel
    exact ⟨frameBytes_length _ p, rfl, frameBytes_len _ p (by omega), (codes_getElem?_of_le hs).symm, frameBytes_params _ p,
      frameBytes_checksum _ p, frameBytes_end _ p, frameBytes_xorFold _ p⟩
  · obtain ⟨hs, -, rfl⟩ := fencFn_eq_ok_iff.1 h
    obtain ⟨hs', -, hf⟩ := fencFn_eq_ok_iff.1 h'
    obtain ⟨hcode, hparams⟩ := frameBytes_inj hf
    have hrow := catIndex_code params_valid (codes_getElem?_of_le hs)
    rw [hcode, catIndex_code params_valid (codes_getElem?_of_le hs')] at hrow
    exact ⟨(Option.some.inj hrow).symm, hparams⟩

/-! ### FENC as an operation (R151, R152, R153) -/

/-- FENC of a row with the parameters the row takes. -/
theorem fencOp_builds {c : Params} {sel : Nat} {p f : List Byte} (hs : sel ≤ 13) (hp : p.length = arityOf sel)
    (hf : frameBytes (c.codes.getD sel 0) p = f) (s : State) :
    fencOp c sel p s = { s with fe := ⟨f ++ s.fe.fbuf.drop f.length, f.length, .noError, .frame f⟩ } :=
  fencOp_ok (fencFn_eq_ok_iff.2 ⟨hs, hp, hf.symm⟩) s

/-- FENC that raises completes all the same, with `FLEN = 0`, and changes FE only. -/
theorem fencOp_raises {c : Params} {sel : Nat} {p : List Byte} {e : Err} (h : fencFn c sel p = .error e) (s : State) :
    ∃ t, Host.Outcome.next (φ := Fault) (ρ := Refusal) (fencOp c sel p s) = .next t ∧ OnlyFe s t ∧ t.fe.flen = 0
      ∧ t.fe.err = e.code ∧ t.fe.out = .err e := by
  refine ⟨_, rfl, fencOp_only c sel p s, ?_⟩
  rw [fencOp_error h]
  exact ⟨rfl, rfl, rfl⟩

/-- Settles O10: the three cases of `fencFn`, the statement's Frame being `frameBytes` in another bracketing. -/
theorem fencBuildsOrRefuses : Obligations.FencBuildsOrRefuses := by
  intro o p s arity body f
  have hf : frameBytes (Config.params.codes.getD o.toNat 0) p = f := by
    simp only [f, body, frameBytes, List.cons_append, List.nil_append, List.append_assoc]
    rfl
  exact ⟨fun ⟨hs, hp⟩ => congrArg Host.Outcome.next (fencOp_builds hs hp hf s),
    fun ⟨hs, hp⟩ => fencOp_raises (fencFn_wrong_count hs hp) s, fun hs => fencOp_raises (fencFn_no_row p hs) s⟩

/-! ### The forms (R156 to R169) -/

/-- `form` is the FENC form of row `sel`; the row has this code and takes `n` parameters (R104). -/
structure IsForm (form : List Byte → Instr) (sel n : Nat) (code : Byte) : Prop where
  exec_eq : ∀ p s, exec (form p) s = .next (fencOp Config.params sel p s)
  row : sel ≤ 13
  arity : arityOf sel = n
  code_eq : Config.params.codes.getD sel 0 = code

/-- A form with the parameters of its row builds their Frame. -/
theorem IsForm.builds {form : List Byte → Instr} {sel n : Nat} {code : Byte} (h : IsForm form sel n code)
    {p f : List Byte} (hp : p.length = n) (hf : frameBytes code p = f) (s : State) :
    exec (form p) s = .next { s with fe := ⟨f ++ s.fe.fbuf.drop f.length, f.length, .noError, .frame f⟩ } := by
  obtain ⟨hexec, hs, rfl, rfl⟩ := h
  exact (hexec p s).trans (congrArg Host.Outcome.next (fencOp_builds hs hp hf s))

/-- A form with another number of parameters is `ParamCountError`. -/
theorem IsForm.refuses {form : List Byte → Instr} {sel n : Nat} {code : Byte} (h : IsForm form sel n code) {p : List Byte}
    (hp : p.length ≠ n) (s : State) : ∃ t, exec (form p) s = .next t ∧ OnlyFe s t ∧ t.fe.flen = 0 ∧ t.fe.err = .paramCount
      ∧ ∃ info, t.fe.out = .err ⟨.paramCount, info⟩ := by
  obtain ⟨hexec, hs, rfl, -⟩ := h
  obtain ⟨t, ht, honly, hlen, herr, hout⟩ := fencOp_raises (fencFn_wrong_count (c := Config.params) hs hp) s
  exact ⟨t, (hexec p s).trans ht, honly, hlen, herr, _, hout⟩

/-- Settles O7: rows 0 to 10. -/
theorem zeroParameterFormsBuildFrame : Obligations.ZeroParameterFormsBuildFrame := by
  intro fc hfc s
  have hform : ∃ sel, IsForm fc.1 sel 0 fc.2 := by
    simp only [List.mem_cons, List.not_mem_nil, or_false] at hfc
    rcases hfc with rfl | rfl | rfl | rfl | rfl | rfl | rfl | rfl | rfl | rfl | rfl <;>
      exact ⟨_, fun _ _ => rfl, by decide, rfl, rfl⟩
  obtain ⟨sel, hform⟩ := hform
  exact ⟨hform.builds rfl (frameBytes_nil fc.2) s, fun p hp => hform.refuses (by simpa using hp) s⟩

/-- Settles O8: rows 11 and 12. -/
theorem oneParameterFormsBuildFrame : Obligations.OneParameterFormsBuildFrame := by
  intro fc hfc s
  have hform : ∃ sel, IsForm fc.1 sel 1 fc.2 := by
    obtain rfl | rfl := List.mem_pair.1 hfc <;> exact ⟨_, fun _ _ => rfl, by decide, rfl, rfl⟩
  obtain ⟨sel, hform⟩ := hform
  exact ⟨fun p0 => hform.builds rfl (frameBytes_one fc.2 p0) s, fun p hp => hform.refuses hp s⟩

/-- Settles O9: row 13; FENC.SELTRK16 is FENC.SELTRK of the two bytes of the track number, high byte first (R120). -/
theorem selectTrackBuildsFrame : Obligations.SelectTrackBuildsFrame := by
  intro s frame
  have hform : IsForm .fencSeltrk 13 2 Config.params.codeSeltrk := ⟨fun _ _ => rfl, by decide, rfl, rfl⟩
  have hbuilds : ∀ p0 p1 : Byte, exec (.fencSeltrk [p0, p1]) s
      = .next { s with fe := ⟨frame p0 p1 ++ s.fe.fbuf.drop 7, 7, .noError, .frame (frame p0 p1)⟩ } :=
    fun p0 p1 => hform.builds rfl (frameBytes_two _ p0 p1) s
  refine ⟨hbuilds, fun n => ⟨n.extractLsb' 8 8, n.extractLsb' 0 8, ?_, hbuilds _ _⟩, fun p hp => hform.refuses hp s⟩
  have := n.isLt
  simp only [BitVec.extractLsb'_toNat, Nat.shiftRight_eq_div_pow]
  omega

end Sys2Proof.Machine
end

section
/-! FPARSE (spec/41_frame_binary.md R170 to R172): its checks as a list in their order, what it accepts, and that it and FENC
undo each other. -/

namespace Sys2Proof.Machine

/-! ### The checks in their order (R171) -/

/-- FPARSE's checks, each with the error it raises when it fails, the catalogue lookup being the place of CMD among the
codes. -/
def fparseChecks (c : Params) (bs : List Byte) : List (Bool × Err) :=
  let len := (bs.getD 1 0).toNat
  let cmd := bs.getD 2 0
  let sum := xorFold ((bs.drop 1).take (len - 1))
  [(decide (bs.length < 5), ⟨.framing, .short⟩), (bs.getD 0 0 != 0x7E, ⟨.framing, .start⟩),
   (decide (len < 3 ∨ 5 < len), ⟨.framing, .length⟩), (decide (bs.length ≠ len + 2), ⟨.framing, .size⟩),
   (bs.getD (len + 1) 0 != 0xEF, ⟨.framing, .ending⟩),
   (sum != bs.getD len 0, ⟨.checksum, .sums sum (bs.getD len 0)⟩),
   (!c.codes.contains cmd, ⟨.unknownOpcode, .cmd cmd⟩),
   (decide (arityOf (c.codes.idxOf cmd) ≠ len - 3), ⟨.paramCount, .selCount (c.codes.idxOf cmd) (len - 3)⟩)]

/-- What FPARSE answers when no check fails. -/
def fparseAnswer (c : Params) (bs : List Byte) : Nat × Byte × List Byte :=
  (c.codes.idxOf (bs.getD 2 0), bs.getD 2 0, (bs.drop 3).take ((bs.getD 1 0).toNat - 3))

/-- Taking the first failed check is asking the checks one after another. -/
theorem elim_find?_cons {α : Type} (b : Bool) (e : Err) (checks : List (Bool × Err)) (x : Except Err α) :
    (((b, e) :: checks).find? Prod.fst).elim x (fun k => .error k.2)
      = if b = true then .error e else (checks.find? Prod.fst).elim x (fun k => .error k.2) := by
  cases b <;> rfl

/-- The number of parameters in a row's entry. -/
theorem catEntry_arityOf {c : Params} {sel : Nat} (hs : sel ≤ 13) :
    (catEntry c sel).map CatEntry.paramByteLength = some (arityOf sel) := by
  rw [catEntry_arity, arityOf, List.getD_eq_getElem _ _ (Nat.lt_succ_of_le hs), List.getElem?_eq_getElem]

/-- A code of the catalogue stands at a row. -/
theorem idxOf_codes_le {c : Params} {cmd : Byte} (h : cmd ∈ c.codes) : c.codes.idxOf cmd ≤ 13 :=
  Nat.le_of_lt_succ (List.idxOf_lt_length_of_mem h)

/-- FPARSE reports the first check that fails (R171). -/
theorem fparseFn_eq {c : Params} (hc : c.valid = true) (bs : List Byte) :
    fparseFn c bs = ((fparseChecks c bs).find? Prod.fst).elim (.ok (fparseAnswer c bs)) (fun k => .error k.2) := by
  simp only [fparseChecks, elim_find?_cons, fparseFn, decide_eq_true_eq, bne_iff_ne, Bool.not_eq_true',
    verifies_eq_false_iff]
  iterate 6 refine if_congr Iff.rfl rfl ?_
  rw [catIndex_eq hc]
  by_cases hm : bs.getD 2 0 ∈ c.codes
  · rw [if_pos hm, if_neg (by simp only [List.contains_eq_mem, hm]; decide)]
    simp only [catEntry_arityOf (idxOf_codes_le hm), ne_eq, Option.some.injEq]
    rfl
  · rw [if_neg hm, if_pos (by simp only [List.contains_eq_mem, hm]; decide)]

/-! ### What FPARSE accepts (R170) -/

theorem fparseAnswer_frameBytes (c : Params) (cmd : Byte) {p : List Byte} (hp : p.length ≤ 252) :
    fparseAnswer c (frameBytes cmd p) = (c.codes.idxOf cmd, cmd, p) := by
  rw [fparseAnswer, frameBytes_len cmd p hp, Nat.add_sub_cancel_left, frameBytes_params, frameBytes_getD_two]

/-- A sequence is a Frame if its START, size, END and checksum are a Frame's. -/
theorem eq_frameBytes_of_parts {len cmd : Byte} {rest : List Byte} {n : Nat} (hlen : len.toNat = n + 3)
    (hsize : rest.length = n + 2) (hend : rest.getD (n + 1) 0 = 0xEF)
    (hsum : xorFold (len :: cmd :: rest.take n) = rest.getD n 0) :
    0x7E :: len :: cmd :: rest = frameBytes cmd (rest.take n) := by
  have hn : (rest.take n).length = n := by simp; omega
  have hrest := take_append_getD_getD_drop (l := rest) (n := n) (by omega)
  rw [List.drop_eq_nil_of_le (by omega), ← hsum, hend] at hrest
  rw [frameBytes, hn, Nat.add_comm, ← hlen, BitVec.ofNat_toNat, BitVec.setWidth_eq, hrest]

/-- No check fails exactly on the Frames of the catalogue. -/
theorem fparseChecks_pass_iff {c : Params} {bs : List Byte} :
    (∀ k ∈ fparseChecks c bs, k.1 = false) ↔
      ∃ cmd p, cmd ∈ c.codes ∧ p.length = arityOf (c.codes.idxOf cmd) ∧ bs = frameBytes cmd p := by
  simp only [fparseChecks, List.forall_mem_cons, decide_eq_false_iff_not, bne_eq_false_iff_eq, Bool.not_eq_false',
    List.contains_iff_mem, not_not]
  constructor
  · rintro ⟨hshort, hstart, hlen, hsize, hend, hsum, hcode, harity, -⟩
    rcases bs with _ | ⟨start, _ | ⟨len, _ | ⟨cmd, rest⟩⟩⟩
    iterate 3 · simp at hshort
    simp only [List.getD_cons_zero, List.getD_cons_succ, List.length_cons] at hshort hstart hlen hsize hend hsum hcode harity
    obtain ⟨n, hn⟩ : ∃ n, len.toNat = n + 3 := Nat.exists_eq_add_of_le' (by omega)
    rw [hn] at hend hsum harity
    have hrest : rest.length = n + 2 := by omega
    exact ⟨cmd, rest.take n, hcode, by simpa [hrest] using harity.symm,
      hstart ▸ eq_frameBytes_of_parts hn hrest hend hsum⟩
  · rintro ⟨cmd, p, hcmd, hp, rfl⟩
    have hle : p.length ≤ 2 := hp ▸ arity_le _
    have hlen := frameBytes_len cmd p (by omega)
    have hsub : 3 + p.length - 1 = 2 + p.length := by omega
    have hadd : 3 + p.length + 1 = 4 + p.length := by omega
    simp only [hlen, frameBytes_length, frameBytes_getD_two, hsub, hadd, Nat.add_sub_cancel_left]
    exact ⟨by omega, rfl, by omega, by omega, frameBytes_end cmd p, (frameBytes_checksum cmd p).symm, hcmd, hp.symm,
      List.forall_mem_nil _⟩

/-- FPARSE accepts the Frames of the catalogue, and answers their row, code and parameters. -/
theorem fparseFn_ok_iff {c : Params} (hc : c.valid = true) {bs : List Byte} {i : Nat} {cmd : Byte} {p : List Byte} :
    fparseFn c bs = .ok (i, cmd, p) ↔
      cmd ∈ c.codes ∧ i = c.codes.idxOf cmd ∧ p.length = arityOf i ∧ bs = frameBytes cmd p := by
  constructor
  · intro h
    rw [fparseFn_eq hc] at h
    cases hfind : (fparseChecks c bs).find? Prod.fst with
    | some k => rw [hfind] at h; cases h
    | none =>
      rw [hfind] at h
      have hpass : ∀ k ∈ fparseChecks c bs, k.1 = false := by simpa using hfind
      obtain ⟨cmd', p', hcmd, hp, rfl⟩ := fparseChecks_pass_iff.1 hpass
      have hle : p'.length ≤ 2 := hp ▸ arity_le _
      rw [fparseAnswer_frameBytes c cmd' (by omega)] at h
      cases h
      exact ⟨hcmd, rfl, hp, rfl⟩
  · rintro ⟨hcmd, rfl, hp, rfl⟩
    have hle : p.length ≤ 2 := hp ▸ arity_le _
    have hfind : (fparseChecks c (frameBytes cmd p)).find? Prod.fst = none := by
      simpa using fparseChecks_pass_iff.2 ⟨cmd, p, hcmd, hp, rfl⟩
    rw [fparseFn_eq hc, hfind, fparseAnswer_frameBytes c cmd (by omega)]
    rfl

/-- Settles O13: FENC builds, and FPARSE accepts, exactly the Frames of the catalogue. -/
theorem fparseInvertsFenc : Obligations.FparseInvertsFenc := by
  constructor
  · intro sel p hs hp
    have hl : sel < Config.params.codes.length := Nat.lt_succ_of_le hs
    have hcode : Config.params.codes.getD sel 0 = Config.params.codes[sel] := List.getD_eq_getElem _ _ hl
    refine ⟨_, fencFn_eq_ok_iff.2 ⟨hs, hp, rfl⟩, (fparseFn_ok_iff params_valid).2 ⟨?_, ?_, hp, rfl⟩⟩ <;> rw [hcode]
    · exact List.getElem_mem hl
    · exact ((valid_facts params_valid).1.idxOf_getElem sel hl).symm
  · intro bs i cmd p h
    obtain ⟨hcmd, rfl, hp, rfl⟩ := (fparseFn_ok_iff params_valid).1 h
    refine fencFn_eq_ok_iff.2 ⟨idxOf_codes_le hcmd, hp, ?_⟩
    rw [List.getD_eq_getElem _ _ (List.idxOf_lt_length_of_mem hcmd), List.getElem_idxOf]

/-! ### FPARSE as an operation of FD (R25, R150, R170) -/

/-- FD with an operand in `RBUF`. -/
def FDState.load (x : FDState) (bs : List Byte) : FDState :=
  { x with rbuf := bs ++ x.rbuf.drop bs.length, rlen := bs.length }

theorem loadRbuf_eq (bs : List Byte) (s : State) : loadRbuf bs s = { s with fd := s.fd.load bs } := by
  rw [loadRbuf, memWrite_zero]
  rfl

theorem fparseOp_error {c : Params} {bs : List Byte} {e : Err} (h : fparseFn c bs = .error e) (s : State) :
    fparseOp c bs s = { s with fd := { s.fd.load bs with kind := .none, err := e.code, out := .err e } } := by
  simp only [fparseOp, h, loadRbuf_eq]
  rfl

theorem fparseOp_ok {c : Params} {bs p : List Byte} {i : Nat} {cmd : Byte} (h : fparseFn c bs = .ok (i, cmd, p))
    (s : State) :
    fparseOp c bs s = { s with fd :=
      { s.fd.load bs with
        kind := .frame, sel := i, cmd := cmd, np := p.length, par := p ++ s.fd.par.drop p.length, err := .noError
        out := .parsed i cmd p } } := by
  simp only [fparseOp, h, loadRbuf_eq, memWrite_zero]
  rfl

theorem exec_fparse {bs : List Byte} (h : fits Config.params.respMax bs = true) (s : State) :
    exec (.fparse bs) s = .next (fparseOp Config.params bs s) := if_pos h

/-- Settles O12: the statement's checks are `fparseChecks`; LENGTH counts the parameters of what passes them. -/
theorem fparseReportsFirstFailedCheck : Obligations.FparseReportsFirstFailedCheck := by
  intro bs s hfit len cmd codes arity params sum checks loaded
  have heq : fparseFn Config.params bs = (checks.find? Prod.fst).elim (.ok (codes.idxOf cmd, cmd, params))
    (fun k => .error k.2) := fparseFn_eq params_valid bs
  rw [exec_fparse hfit]
  cases hfind : checks.find? Prod.fst with
  | some k =>
    rw [hfind] at heq
    exact congrArg Host.Outcome.next (fparseOp_error heq s)
  | none =>
    rw [hfind] at heq
    obtain ⟨-, -, hp, hbs⟩ := (fparseFn_ok_iff params_valid).1 heq
    have hle : params.length ≤ 2 := hp ▸ arity_le _
    have hlen : len = 3 + params.length := by rw [← frameBytes_len cmd params (by omega), ← hbs]
    have hnp : len - 3 = params.length := by omega
    rw [hnp]
    exact congrArg Host.Outcome.next (fparseOp_ok heq s)

end Sys2Proof.Machine
end

section
/-! FDEC (spec/41_frame_binary.md R174 to R180): what `strip` removes, that a text is of one reply shape at most, and what FDEC
makes of each kind of reply. -/

namespace Sys2Proof.Machine

/-! ### Stripping (R175) -/

@[simp] theorem stripBytes_nil (set : List Byte) : stripBytes set [] = [] := rfl

/-- Stripping is dropping from the front, then from the back. -/
theorem stripBytes_eq_rdropWhile (set r : List Byte) :
    stripBytes set r = (r.dropWhile set.contains).rdropWhile set.contains := rfl

/-- A text is its leading strip bytes, the stripped text, and its trailing strip bytes. -/
theorem stripBytes_split (set r : List Byte) :
    ∃ front back, r = front ++ stripBytes set r ++ back ∧ ∀ b ∈ front ++ back, b ∈ set := by
  refine ⟨r.takeWhile set.contains, (r.dropWhile set.contains).rtakeWhile set.contains, ?_, fun b hb => ?_⟩
  · rw [stripBytes_eq_rdropWhile, List.append_assoc, List.rdropWhile_append_rtakeWhile, List.takeWhile_append_dropWhile]
  · have hin : set.contains b = true :=
      (List.mem_append.1 hb).elim List.mem_takeWhile_imp List.mem_rtakeWhile_imp
    simpa using hin

/-- The first byte of the stripped text was the first that stayed when the front was dropped. -/
theorem not_mem_of_head?_stripBytes {set r : List Byte} {b : Byte} (h : (stripBytes set r).head? = some b) : b ∉ set := by
  obtain ⟨back, hback⟩ := List.rdropWhile_prefix set.contains (l := r.dropWhile set.contains)
  have hkept := List.head?_dropWhile_not set.contains r
  rw [← hback, List.head?_append, ← stripBytes_eq_rdropWhile, h] at hkept
  simpa using hkept

theorem not_mem_of_getLast?_stripBytes {set r : List Byte} {b : Byte} (h : (stripBytes set r).getLast? = some b) :
    b ∉ set := by
  obtain ⟨hne, rfl⟩ := List.mem_getLast?_eq_getLast h
  exact List.contains_iff_mem.not.1 (List.rdropWhile_last_not set.contains (r.dropWhile set.contains) hne)

/-- The default, no strip byte at all, keeps every text. -/
@[simp] theorem stripBytes_empty_set (r : List Byte) : stripBytes [] r = r := by
  obtain ⟨front, back, hsplit, hin⟩ := stripBytes_split [] r
  have hnil : front ++ back = [] := List.eq_nil_iff_forall_not_mem.2 fun b hb => List.not_mem_nil (hin b hb)
  obtain ⟨rfl, rfl⟩ := List.append_eq_nil_iff.1 hnil
  simpa using hsplit.symm

/-! ### The two shapes (R176, R177, R179) -/

/-- `ACK_PREFIX` holds a byte that is no hex digit (R8), so no text that begins with it is all hex digits. -/
theorem not_all_ishex_of_ackPrefix {c : Params} (hc : c.valid = true) {t : List Byte} (h : c.ackPrefix <+: t) :
    ¬ ∀ b ∈ t, ishex b = true := by
  obtain ⟨-, -, -, ⟨b, hb, hnot⟩, -⟩ := valid_facts hc
  intro hall
  rw [hall b (h.subset hb)] at hnot
  cases hnot

/-- The numeral of R177 has its most significant digit first. -/
theorem hexNumeral_eq_ofDigits (t : List Byte) : hexNumeral t = Nat.ofDigits 16 (t.reverse.map hexval) := by
  rw [Nat.ofDigits_eq_foldr, List.map_reverse, List.foldr_reverse, List.foldl_map]
  simp only [hexNumeral, Nat.cast_id, Nat.add_comm]

/-! ### What FDEC answers (R174, R178, R180) -/

section

variable {c : Params} {r : List Byte}

theorem fdecFn_nil (c : Params) : fdecFn c [] = .error ⟨.transportTimeout, .none⟩ := rfl

theorem fdecFn_ack {rest : List Byte} (hr : r ≠ []) (ht : stripBytes c.stripSet r = c.ackPrefix ++ rest) :
    fdecFn c r = .ok (.ack rest) := by
  simp [fdecFn, hr, ht]

theorem fdecFn_hex (hc : c.valid = true) (ht : stripBytes c.stripSet r ≠ [])
    (hx : ∀ b ∈ stripBytes c.stripSet r, ishex b = true) :
    fdecFn c r = .ok (.hex (hexNumeral (stripBytes c.stripSet r))) := by
  have hr : r ≠ [] := by rintro rfl; exact ht rfl
  have hnot : ¬ c.ackPrefix <+: stripBytes c.stripSet r := fun h => not_all_ishex_of_ackPrefix hc h hx
  have hall : (stripBytes c.stripSet r).all ishex = true := List.all_eq_true.2 hx
  simp [fdecFn, hr, hnot, ht, hall]

theorem fdecFn_neither (hr : r ≠ []) (hack : ¬ ∃ rest, stripBytes c.stripSet r = c.ackPrefix ++ rest)
    (hhex : stripBytes c.stripSet r = [] ∨ ∃ b ∈ stripBytes c.stripSet r, ishex b = false) :
    fdecFn c r = .error ⟨.framing, .raw r⟩ := by
  have hnot : ¬ c.ackPrefix <+: stripBytes c.stripSet r := fun ⟨rest, h⟩ => hack ⟨rest, h.symm⟩
  have hno : (!(stripBytes c.stripSet r).isEmpty && (stripBytes c.stripSet r).all ishex) = false := by
    obtain h | ⟨b, hb, hnx⟩ := hhex
    · rw [h]; rfl
    · rw [Bool.and_eq_false_iff]
      exact .inr (List.all_eq_false.2 ⟨b, hb, by simp [hnx]⟩)
  simp [fdecFn, hr, hnot, hno]

end

/-- Settles O15: stripping splits a text in three; the shapes exclude each other by a byte of `ACK_PREFIX`; and FDEC's answers
are told apart by emptiness, the prefix, and the digits. -/
theorem replyShapes : Obligations.ReplyShapes := by
  refine ⟨fun set r => ?_, fun rest => not_all_ishex_of_ackPrefix params_valid (List.prefix_append _ rest), fun r => ?_⟩
  · obtain ⟨front, back, hsplit, hin⟩ := stripBytes_split set r
    exact ⟨front, back, hsplit, hin, fun b => not_mem_of_head?_stripBytes, fun b => not_mem_of_getLast?_stripBytes,
      fun h => h ▸ stripBytes_empty_set r⟩
  · by_cases hr : r = []
    · exact .inr (.inr (.inl ⟨hr ▸ fdecFn_nil _, hr⟩))
    by_cases hack : ∃ rest, stripBytes Config.params.stripSet r = Config.params.ackPrefix ++ rest
    · obtain ⟨rest, ht⟩ := hack
      exact .inl ⟨rest, fdecFn_ack hr ht⟩
    by_cases hhex : stripBytes Config.params.stripSet r ≠ [] ∧ ∀ b ∈ stripBytes Config.params.stripSet r, ishex b = true
    · exact .inr (.inl ⟨_, fdecFn_hex params_valid hhex.1 hhex.2⟩)
    · refine .inr (.inr (.inr ⟨fdecFn_neither hr hack ?_, hr⟩))
      simpa [or_iff_not_imp_left] using hhex

/-! ### FDEC as an operation of FD (R25, R150, R174) -/

section

variable {c : Params} {r : List Byte}

theorem fdecOp_error {e : Err} (h : fdecFn c r = .error e) (s : State) :
    fdecOp c r s = { s with fd := { s.fd.load r with kind := .none, err := e.code, out := .err e } } := by
  simp only [fdecOp, h, loadRbuf_eq]
  rfl

theorem fdecOp_ack {rest : List Byte} (h : fdecFn c r = .ok (.ack rest)) (s : State) :
    fdecOp c r s = { s with fd :=
      { s.fd.load r with kind := .ack, rest := rest, err := .noError, out := .reply (.ack rest) } } := by
  simp only [fdecOp, h, loadRbuf_eq]
  rfl

theorem fdecOp_hex {v : Nat} (h : fdecFn c r = .ok (.hex v)) (s : State) :
    fdecOp c r s = { s with fd :=
      { s.fd.load r with kind := .hex, val := v, err := .noError, out := .reply (.hex v) } } := by
  simp only [fdecOp, h, loadRbuf_eq]
  rfl

end

theorem exec_fdec {r : List Byte} (h : fits Config.params.respMax r = true) (s : State) :
    exec (.fdec r) s = .next (fdecOp Config.params r s) := if_pos h

/-- Settles O14: one answer of `fdecFn` per clause, recorded in FD. -/
theorem fdecClassifiesReply : Obligations.FdecClassifiesReply := by
  intro r s hfit t a loaded
  rw [exec_fdec hfit]
  exact ⟨fun hr => congrArg Host.Outcome.next (fdecOp_error (hr ▸ fdecFn_nil _) s),
    fun rest hr ht => congrArg Host.Outcome.next (fdecOp_ack (fdecFn_ack hr ht) s),
    fun ht hx => ⟨hexNumeral t, hexNumeral_eq_ofDigits t,
      congrArg Host.Outcome.next (fdecOp_hex (fdecFn_hex params_valid ht hx) s)⟩,
    fun hr hack hhex => congrArg Host.Outcome.next (fdecOp_error (fdecFn_neither hr hack hhex) s)⟩

end Sys2Proof.Machine
end

section
/-! Hex text (spec/42_frame_hex.md R192 to R196): what HEXLIFY spells, what UNHEX reads or refuses, and the round trip. -/

namespace Sys2Proof.Machine

/-! ### HEXLIFY (R192) -/

/-- HEXLIFY is two digits for each byte. -/
theorem hexText_eq_flatMap (hc : HexCase) (bs : List Byte) :
    hexText hc bs = bs.flatMap fun b => [hexdig hc (b.toNat / 16), hexdig hc (b.toNat % 16)] := by
  induction bs with
  | nil => rfl
  | cons b bs ih => simp [hexText, ih]

/-- Settles O16: the text at the result port is `hexText`. -/
theorem hexlifySpellsBytes : Obligations.HexlifySpellsBytes :=
  fun bs _ => ⟨hexText Config.params.hexCase bs, rfl, hexText_eq_flatMap _ bs, spells_hexText _ bs⟩

/-! ### UNHEX (R193, R195) -/

theorem unhexFn_of_odd {x : List Byte} (h : x.length % 2 = 1) : unhexFn x = .error ⟨.framing, .odd⟩ := if_pos h

theorem unhexFn_of_bad_digit {x : List Byte} (h : x.length % 2 = 0) (hx : ∃ c ∈ x, ishex c = false) :
    unhexFn x = .error ⟨.framing, .digit⟩ := by
  have hall : x.all ishex = false := List.all_eq_false.2 (by simpa using hx)
  simp [unhexFn, h, hall]

/-- UNHEX gives the bytes a text spells, and raises on a text that spells none. -/
theorem unhexFn_eq_ok_iff {x d : List Byte} : unhexFn x = .ok d ↔ Spells x d := by
  refine ⟨fun h => ?_, Spells.unhexFn_eq⟩
  by_cases hodd : x.length % 2 = 1
  · rw [unhexFn_of_odd hodd] at h
    cases h
  by_cases hbad : ∃ c ∈ x, ishex c = false
  · rw [unhexFn_of_bad_digit (by omega) hbad] at h
    cases h
  have hspells : Spells x (pairBytes x) := spells_pairBytes (by omega) (by simpa using hbad)
  rw [hspells.unhexFn_eq] at h
  exact Except.ok.inj h ▸ hspells

/-! ### The round trip (R196) -/

/-- The two digits of a byte made of two digits are these, in the emitted case. -/
theorem hexText_cons_pair (hc : HexCase) {a b : Byte} (ha : ishex a = true) (hb : ishex b = true) (bs : List Byte) :
    hexText hc (BitVec.ofNat 8 (16 * hexval a + hexval b) :: bs)
      = hexdig hc (hexval a) :: hexdig hc (hexval b) :: hexText hc bs := by
  have ha := hexval_lt ha
  have hb := hexval_lt hb
  have hv : (BitVec.ofNat 8 (16 * hexval a + hexval b)).toNat = 16 * hexval a + hexval b := by
    rw [BitVec.toNat_ofNat]
    omega
  have hhigh : (16 * hexval a + hexval b) / 16 = hexval a := by omega
  have hlow : (16 * hexval a + hexval b) % 16 = hexval b := by omega
  rw [hexText, hv, hhigh, hlow]

/-- HEXLIFY of the pairs of a well-formed text is the text with its letters in the emitted case. -/
theorem hexText_pairBytes (hc : HexCase) {x : List Byte} (hl : x.length % 2 = 0) (hx : ∀ c ∈ x, ishex c = true) :
    hexText hc (pairBytes x) = x.map fun c => hexdig hc (hexval c) := by
  induction x using pairBytes.induct with
  | case1 a b t ih =>
    rw [pairBytes, hexText_cons_pair hc (hx a (by simp)) (hx b (by simp)),
      ih (by simp at hl; omega) fun c h => hx c (by simp [h])]
    rfl
  | case2 t h =>
    match t, h with
    | [], _ => rfl
    | [_], _ => simp at hl
    | a :: b :: t, h => exact absurd rfl (h a b t)

theorem Spells.hexText_eq {x d : List Byte} (h : Spells x d) (hc : HexCase) :
    hexText hc d = x.map fun c => hexdig hc (hexval c) := by
  have ⟨hl, hx, _⟩ := h
  rw [← h.pairBytes_eq, hexText_pairBytes hc (by omega) hx]

/-- Settles O18: a text UNHEX reads spells the bytes, so HEXLIFY gives its letters back, each in the emitted case. -/
theorem hexTextRoundTrip : Obligations.HexTextRoundTrip := by
  refine fun hc => ⟨unhexFn_hexText hc, fun x d h => ?_⟩
  have htext : hexText hc d = x.map fun c => hexdig hc (hexval c) := (unhexFn_eq_ok_iff.1 h).hexText_eq hc
  refine ⟨htext, fun hcase => ?_⟩
  calc hexText hc d = x.map fun c => hexdig hc (hexval c) := htext
    _ = x.map id := List.map_congr_left hcase
    _ = x := List.map_id x

/-! ### UNHEX as an operation of HD (R27, R82, R299) -/

/-- HD once the text of an operation is in `TBUF` (R27). -/
def HDState.load (x : HDState) (t : List Byte) : HDState :=
  { x with tbuf := t ++ x.tbuf.drop t.length, tlen := t.length }

theorem loadTbuf_eq (t : List Byte) (s : State) : loadTbuf t s = { s with hd := s.hd.load t } := by
  rw [loadTbuf, memWrite_zero]
  rfl

theorem unhexOp_error {t : List Byte} {e : Err} (h : unhexFn t = .error e) (s : State) :
    unhexOp t s = { s with hd := { s.hd.load t with verdict := .error, err := e.code, out := .err e } } := by
  simp only [unhexOp, h, loadTbuf_eq]
  rfl

theorem unhexOp_ok {t d : List Byte} (h : unhexFn t = .ok d) (s : State) :
    unhexOp t s = { s with hd :=
      { s.hd.load t with scratch := d ++ s.hd.scratch.drop d.length, err := .noError, out := .bytes d } } := by
  simp only [unhexOp, h, loadTbuf_eq, writeScratch, memWrite_zero]
  rfl

theorem exec_unhex {t : List Byte} (h : fits Config.params.txtMax t = true) (s : State) :
    exec (.unhex t) s = .next (unhexOp t s) := if_pos h

/-- Settles O17: one answer of `unhexFn` per clause, recorded in HD. -/
theorem unhexReadsPairs : Obligations.UnhexReadsPairs := by
  intro x s hfit loaded
  rw [exec_unhex hfit]
  exact ⟨fun hodd => congrArg Host.Outcome.next (unhexOp_error (unhexFn_of_odd hodd) s),
    fun heven hbad => congrArg Host.Outcome.next (unhexOp_error (unhexFn_of_bad_digit heven hbad) s),
    fun d hd => congrArg Host.Outcome.next (unhexOp_ok hd.unhexFn_eq s)⟩

end Sys2Proof.Machine
end

section
/-! HDEC and HENC (spec/42_frame_hex.md R200 to R209): the checks of HDEC on the decoded bytes, what it records in HD, and the
reply HENC builds, which HDEC does not take for the request. -/

namespace Sys2Proof.Machine

/-! ### HDEC's checks (R205 to R207, R209) -/

/-- A frame with a last byte is told apart by its sum, then by its bytes. -/
theorem hdecBytes_concat (d : List Byte) (b : Byte) :
    hdecBytes (d ++ [b]) =
      if addFold d ≠ b then .error ⟨.checksum, .sums (addFold d) b⟩
      else if d ++ [b] = Config.readWeightReq then .ok .readWeight else .ok .unrecognised := by
  simp [hdecBytes, verifies, foldOf]

/-- HDEC of a text that spells bytes is its checks on them. -/
theorem Spells.hdecFn_eq {x d : List Byte} (h : Spells x d) : hdecFn x = hdecBytes d := by
  simp only [hdecFn, h.unhexFn_eq]

/-- HDEC raises what UNHEX raises. -/
theorem hdecFn_of_unhexFn_error {x : List Byte} {e : Err} (h : unhexFn x = .error e) : hdecFn x = .error e := by
  simp only [hdecFn, h]

theorem hdecFn_nil : hdecFn [] = .error ⟨.framing, .empty⟩ := rfl

/-- The sum fold is a byte just when the exact sum is that byte modulo 256 (R135, R205). -/
theorem addFold_eq_iff {d : List Byte} {b : Byte} : addFold d = b ↔ (d.map BitVec.toNat).sum % 256 = b.toNat := by
  rw [← addFold_toNat, BitVec.toNat_inj]

section

variable {x d : List Byte} {b : Byte} (hx : Spells x (d ++ [b]))
include hx

theorem hdecFn_wrong_sum (h : (d.map BitVec.toNat).sum % 256 ≠ b.toNat) :
    hdecFn x = .error ⟨.checksum, .sums (addFold d) b⟩ := by
  rw [hx.hdecFn_eq, hdecBytes_concat, if_pos (mt addFold_eq_iff.1 h)]

theorem hdecFn_request (h : d ++ [b] = [0x01, 0x01, 0x01, 0x03]) : hdecFn x = .ok .readWeight := by
  rw [hx.hdecFn_eq, h]
  rfl

theorem hdecFn_other (hsum : (d.map BitVec.toNat).sum % 256 = b.toNat) (h : d ++ [b] ≠ [0x01, 0x01, 0x01, 0x03]) :
    hdecFn x = .ok .unrecognised := by
  rw [hx.hdecFn_eq, hdecBytes_concat, if_neg (not_not.2 (addFold_eq_iff.2 hsum))]
  exact if_neg h

end

/-! ### HDEC as an operation of HD (R27, R82, R205, R299) -/

theorem hdecOp_error {t : List Byte} {e : Err} (h : hdecFn t = .error e) (s : State) :
    hdecOp t s = { s with hd := { s.hd.load t with verdict := .error, err := e.code, out := .err e } } := by
  unfold hdecFn at h
  cases hu : unhexFn t with
  | error e' =>
    simp only [hu] at h
    simp only [hdecOp, hu, loadTbuf_eq, Except.error.inj h]
    rfl
  | ok d =>
    simp only [hu] at h
    simp only [hdecOp, hu, h, loadTbuf_eq]
    rfl

/-- A verdict is recorded with the decoded bytes in the scratch buffer. -/
theorem hdecOp_ok {t : List Byte} {v : Verdict} (h : hdecFn t = .ok v) (s : State) :
    ∃ sc, hdecOp t s = { s with hd :=
      { s.hd.load t with scratch := sc, verdict := v.register, err := .noError, out := .verdict v } } := by
  unfold hdecFn at h
  cases hu : unhexFn t with
  | error e => simp [hu] at h
  | ok d =>
    simp only [hu] at h
    refine ⟨memWrite s.hd.scratch 0 d, ?_⟩
    simp only [hdecOp, hu, h, loadTbuf_eq]
    rfl

theorem exec_hdec {t : List Byte} (h : fits Config.params.txtMax t = true) (s : State) :
    exec (.hdec t) s = .next (hdecOp t s) := if_pos h

/-- Settles O20: one answer of `hdecFn` per clause, recorded in HD. -/
theorem hdecChecksThenRecognises : Obligations.HdecChecksThenRecognises := by
  intro x s hfit loaded raises answers
  have hraises : ∀ {e}, hdecFn x = .error e → raises e := fun h =>
    (exec_hdec hfit s).trans (congrArg Host.Outcome.next (hdecOp_error h s))
  have hanswers : ∀ {v}, hdecFn x = .ok v → answers v.register v := fun h =>
    (hdecOp_ok h s).imp fun _ hop => (exec_hdec hfit s).trans (congrArg Host.Outcome.next hop)
  exact ⟨fun hodd => hraises (hdecFn_of_unhexFn_error (unhexFn_of_odd hodd)),
    fun heven hbad => hraises (hdecFn_of_unhexFn_error (unhexFn_of_bad_digit heven hbad)),
    fun hnil => hraises (hnil ▸ hdecFn_nil),
    fun d b hx => ⟨fun h => hraises (hdecFn_wrong_sum hx h), fun h => hanswers (hdecFn_request hx h),
      fun hsum h => hanswers (hdecFn_other hx hsum h)⟩⟩

/-! ### HENC (R200, R201, R203) -/

/-- The bytes of HENC's reply before its checksum (R200). -/
def replyBody (w : Word32) : List Byte := 0x01 :: 0x01 :: 0x08 :: split32 w

theorem hencBytes_eq (w : Word32) : hencBytes w = replyBody w ++ [addFold (replyBody w)] := rfl

/-- The checksum of the reply, from the pattern's value. -/
theorem addFold_replyBody_toNat (w : Word32) :
    (addFold (replyBody w)).toNat
      = (0x0A + w.toNat / 2 ^ 24 + w.toNat / 2 ^ 16 % 256 + w.toNat / 2 ^ 8 % 256 + w.toNat % 256) % 256 := by
  have := w.isLt
  rw [addFold_toNat]
  simp only [replyBody, split32, List.map_cons, List.map_nil, List.sum_cons, List.sum_nil, BitVec.extractLsb'_toNat,
    Nat.shiftRight_eq_div_pow, BitVec.reduceToNat]
  omega

/-- HDEC of a reply's text is `UNRECOGNISED`: the sum is right, and eight bytes are not the four of the request (R203). -/
theorem hdecFn_hencBytes (hc : HexCase) (w : Word32) : hdecFn (hexText hc (hencBytes w)) = .ok .unrecognised := by
  have hlen : hencBytes w ≠ Config.readWeightReq := fun h => absurd (congrArg List.length h) (show 8 ≠ 4 by decide)
  rw [(spells_hexText hc _).hdecFn_eq, hencBytes_eq, hdecBytes_concat, if_neg (not_not.2 rfl), ← hencBytes_eq, if_neg hlen]

/-- HENC fills HE's buffers with the reply and its text, whose lengths are 8 and 16. -/
theorem hencOp_eq (c : Params) (w : Word32) (s : State) :
    hencOp c w s = { s with he :=
      ⟨hencBytes w ++ s.he.hbuf.drop 8, hexText c.hexCase (hencBytes w) ++ s.he.htxt.drop 16, true, .noError,
        .hexReply (hencBytes w) (hexText c.hexCase (hencBytes w))⟩ } := by
  simp only [hencOp, memWrite_zero]
  rfl

/-- Settles O19: the checksum is the sum of the body. -/
theorem hencBuildsReply : Obligations.HencBuildsReply :=
  fun w s => ⟨addFold (replyBody w), congrArg Host.Outcome.next (hencOp_eq Config.params w s), addFold_replyBody_toNat w,
    spells_hexText _ _, hdecFn_hencBytes _ w⟩

end Sys2Proof.Machine
end

section
/-! What each step of MA does (spec/43_bus_arbiter.md R221 to R236), one equation per step and case, and what the environment's
steps do (R243). -/

namespace Sys2Proof.Machine

/-- A size is within a capacity just when a finite capacity bounds it (R8). -/
theorem withinCap_iff {cap : Option Nat} {n : Nat} : withinCap cap n = true ↔ ∀ m, cap = some m → n ≤ m := by
  cases cap <;> simp [withinCap]

/-! ### The post (R223) -/

/-- Settles O24: nothing refuses the post, and a timeout of `TICK_W` bits is carried as it is. -/
theorem xferPostsRequest : Obligations.XferPostsRequest := by
  intro i frame tmo s hport hfree hcap htmo
  have hfits : fits Config.params.txfMax frame = true := fits_of_withinCap (withinCap_iff.2 hcap)
  refine ⟨postState Config.params i frame tmo s, post_eq (portExists_of_lt hport) hfits hfree, rfl, ?_, ?_, fun j hj => ?_⟩
  · rw [postState_reqOf, if_pos rfl, ticksOperand_eq htmo]
  · rw [postState_resOf, if_pos rfl]
  · rw [postState_reqOf, postState_resOf, if_neg hj, if_neg hj]
    exact ⟨rfl, rfl⟩

/-! ### The grant (R226, R227) -/

/-- A grant of a pending requester takes a free lock. -/
theorem grantStep_of_free {i : Nat} {s : State} (hl : s.ma.lock = false) (hp : (s.reqOf i).pending = true) :
    grantStep i s = { s with ma :=
      { s.ma with
        lock := true, owner := i, phase := .drain, tmo := (s.reqOf i).tmo
        txf := (s.reqOf i).frame ++ s.ma.txf.drop (s.reqOf i).frame.length
        txflen := (s.reqOf i).frame.length } } := by
  simp [grantStep, hl, hp, State.withMa]

/-- There is no other grant. -/
theorem grantStep_of_not {i : Nat} {s : State} (h : s.ma.lock = true ∨ (s.reqOf i).pending = false) :
    grantStep i s = s :=
  if_neg (by rcases h with h | h <;> simp [h])

/-- Settles O26. -/
theorem grantTakesFreeLock : Obligations.GrantTakesFreeLock :=
  fun _ _ => ⟨fun hl hp => congrArg Host.Outcome.next (grantStep_of_free hl hp),
    fun h => congrArg Host.Outcome.next (grantStep_of_not h)⟩

/-! ### The step of each phase (R228 to R231) -/

section

variable {c : Params} {s : State}

theorem maStep_of_idle (h : s.ma.phase = .idle) : maStep c s = .next s := by simp only [maStep, h]
theorem maStep_of_drain (h : s.ma.phase = .drain) : maStep c s = .next (drainStep s) := by simp only [maStep, h]
theorem maStep_of_write (h : s.ma.phase = .write) : maStep c s = writeStep s := by simp only [maStep, h]
theorem maStep_of_flush (h : s.ma.phase = .flush) : maStep c s = .next (flushStep s) := by simp only [maStep, h]
theorem maStep_of_recv (h : s.ma.phase = .recv) : maStep c s = .next (receiveStep c s) := by simp only [maStep, h]

/-- The flush waits while the transmit path holds a byte. -/
theorem flushStep_of_not_idle (h : s.line.txq ≠ []) : flushStep s = s := by simp [flushStep, txIdle, h]

/-- The flush of an idle line opens the response window. -/
theorem flushStep_of_idle (h : s.line.txq = []) : flushStep s = { s with ma :=
    { s.ma with t0 := s.now, resplen := 0, got := false, ovf := false, phase := .recv } } := by
  simp [flushStep, txIdle, h, State.withMa]

/-- The push hands the byte at `TXIDX` to the transmit path. -/
theorem writeStep_of_ready (hi : s.ma.txidx < s.ma.txflen) (hb : s.ma.txflen ≤ s.ma.txf.length)
    (hr : s.line.txReady = true) : writeStep s = .next { s with
      line := { s.line with txq := s.line.txq ++ [s.ma.txf.getD s.ma.txidx 0] }
      ma := { s.ma with txidx := s.ma.txidx + 1 } } := by
  simp only [writeStep, hi, hr, pushStep, memRead_one hi hb]
  rfl

/-- The push waits for the UART. -/
theorem writeStep_of_not_ready (hi : s.ma.txidx < s.ma.txflen) (hr : s.line.txReady = false) :
    writeStep s = .next s := by
  simp [writeStep, hi, hr]

/-- The end of write. -/
theorem writeStep_of_end (hi : s.ma.txidx = s.ma.txflen) : writeStep s = .next (endWriteStep s) := by
  simp [writeStep, hi]

/-- The first case of the receive step. -/
theorem receiveStep_of_deadline (h : deadlineReached c s = true) : receiveStep c s = finishStep s := if_pos h

/-- The second. -/
theorem receiveStep_of_byte {b : Byte} {rest : List Byte} (h : deadlineReached c s = false)
    (hb : s.line.rxfifo = b :: rest) : receiveStep c s = takeByte c b rest s := by
  simp [receiveStep, h, hb]

/-- The third. -/
theorem receiveStep_of_stopped (h : deadlineReached c s = false) (hb : s.line.rxfifo = [])
    (hs : dataStopped c s = true) : receiveStep c s = finishStep s := by
  simp [receiveStep, h, hb, hs]

/-- The fourth: MA polls again. -/
theorem receiveStep_of_not_stopped (h : deadlineReached c s = false) (hb : s.line.rxfifo = [])
    (hs : dataStopped c s = false) : receiveStep c s = s := by
  simp [receiveStep, h, hb, hs]

/-- A byte for which there is room is stored behind the others (R231). -/
theorem takeByte_of_room (b : Byte) (rest : List Byte) (h : respHasRoom c s = true) :
    takeByte c b rest s = { s with
      line := { s.line with rxfifo := rest }
      ma := { s.ma with
        resp := s.ma.resp.take s.ma.resplen ++ [b] ++ s.ma.resp.drop (s.ma.resplen + 1)
        resplen := s.ma.resplen + 1, got := true, tlast := s.now } } :=
  if_pos h

/-- A byte for which there is none is dropped (R234). -/
theorem takeByte_of_no_room (b : Byte) (rest : List Byte) (h : respHasRoom c s = false) :
    takeByte c b rest s = { s with
      line := { s.line with rxfifo := rest }
      ma := { s.ma with ovf := true, got := true, tlast := s.now } } :=
  if_neg (by simp [h])

/-- There is room below the capacity of `RESP`. -/
theorem respHasRoom_iff : respHasRoom c s = true ↔ ∀ m, c.respMax = some m → s.ma.resplen < m := by
  unfold respHasRoom
  cases c.respMax <;> simp

/-- Data stopped, with the idle gap written out (R233). -/
theorem dataStopped_iff : dataStopped c s = true
    ↔ s.ma.got = true ∧ ∃ g, c.idleGap = some g ∧ g ≤ elapsed c s.now s.ma.tlast := by
  unfold dataStopped
  cases c.idleGap <;> simp

/-- Elapsed time since a sample of `TICK_W` bits (R232). -/
theorem elapsed_eq {now t : Nat} (h : t < 2 ^ c.tickW) :
    elapsed c now t = (now + 2 ^ c.tickW - t) % 2 ^ c.tickW := by
  rw [elapsed, Nat.mod_eq_of_lt h]

end

/-- Settles O27. -/
theorem drainAndFlushSteps : Obligations.DrainAndFlushSteps :=
  fun _ => ⟨fun h => maStep_of_drain h,
    fun h hq => (maStep_of_flush h).trans (congrArg Host.Outcome.next (flushStep_of_idle hq)),
    fun h hq => (maStep_of_flush h).trans (congrArg Host.Outcome.next (flushStep_of_not_idle hq))⟩

/-- Settles O28: the invariant has `TXF` hold the `TXFLEN` bytes of the frame. -/
theorem writePushesInOrder : Obligations.WritePushesInOrder := by
  intro s h hs
  obtain ⟨-, -, -, -, hbuf, -⟩ := (Memory.wf_iff _ s).1 hs.buffers
  have hma : runEvent .ma s = writeStep s := maStep_of_write h
  rw [hma]
  exact ⟨fun hi => writeStep_of_ready hi hbuf, writeStep_of_not_ready, writeStep_of_end⟩

/-- Settles O29: one equation of the receive step per case. -/
theorem receiveTakesFirstCase : Obligations.ReceiveTakesFirstCase := by
  intro s hp ht0 htlast since stopped
  have hstep : ∀ {t}, receiveStep Config.params s = t → runEvent .ma s = .next t := fun h =>
    (maStep_of_recv hp).trans (congrArg Host.Outcome.next h)
  have hdead : deadlineReached Config.params s = true ↔ s.ma.tmo ≤ since s.ma.t0 := by
    rw [deadlineReached, elapsed_eq ht0, decide_eq_true_eq]
  have hlive : since s.ma.t0 < s.ma.tmo → deadlineReached Config.params s = false := fun h =>
    Bool.eq_false_iff.2 fun hd => absurd (hdead.1 hd) (Nat.not_le.2 h)
  have hstop : dataStopped Config.params s = true ↔ stopped := by rw [dataStopped_iff, elapsed_eq htlast]
  refine ⟨fun h => hstep (receiveStep_of_deadline (hdead.2 h)), fun b rest h hb => ⟨fun hroom => ?_, fun m hm hfull => ?_⟩,
    fun h hb hs => hstep (receiveStep_of_stopped (hlive h) hb (hstop.2 hs)),
    fun h hb hs => hstep (receiveStep_of_not_stopped (hlive h) hb (Bool.eq_false_iff.2 (mt hstop.1 hs)))⟩
  · exact hstep ((receiveStep_of_byte (hlive h) hb).trans (takeByte_of_room b rest (respHasRoom_iff.2 hroom)))
  · have hno : respHasRoom Config.params s = false :=
      Bool.eq_false_iff.2 fun hr => absurd (respHasRoom_iff.1 hr m hm) (Nat.not_lt.2 hfull)
    exact hstep ((receiveStep_of_byte (hlive h) hb).trans (takeByte_of_no_room b rest hno))

/-! ### The two releases (R235, R236) -/

/-- What a release leaves in the slots: the owner's result and its request without the pending bit, and the others as they
were. -/
theorem release_slots (r : ResSlot) (s : State) :
    (release r s).resOf s.ma.owner = r
    ∧ (release r s).reqOf s.ma.owner = { s.reqOf s.ma.owner with pending := false }
    ∧ ∀ j, j ≠ s.ma.owner → (release r s).reqOf j = s.reqOf j ∧ (release r s).resOf j = s.resOf j := by
  refine ⟨?_, ?_, fun j hj => ?_⟩
  · rw [release_resOf, if_pos rfl]
  · rw [release_reqOf, if_pos rfl]
  · rw [release_reqOf, release_resOf, if_neg hj, if_neg hj]
    exact ⟨rfl, rfl⟩

/-- The finish releases with the bytes accumulated (R235). -/
theorem finishStep_eq (s : State) :
    finishStep s = release ⟨true, .noError, s.ma.ovf, s.ma.resp.take s.ma.resplen⟩ s := by
  simp [finishStep]

/-- The receive step finishes at the deadline, and once data has stopped (R233). -/
theorem receiveStep_finishes {c : Params} {s : State}
    (h : deadlineReached c s = true ∨ (s.line.rxfifo = [] ∧ dataStopped c s = true)) :
    receiveStep c s = finishStep s := by
  by_cases hd : deadlineReached c s = true
  · exact receiveStep_of_deadline hd
  · obtain ⟨hb, hs⟩ := h.resolve_left hd
    exact receiveStep_of_stopped (Bool.eq_false_iff.2 hd) hb hs

/-- Settles O30. -/
theorem finishDeliversAndReleases : Obligations.FinishDeliversAndReleases := by
  intro s hp h
  refine ⟨finishStep s, (maStep_of_recv hp).trans (congrArg Host.Outcome.next (receiveStep_finishes h)), rfl, ?_⟩
  rw [finishStep_eq]
  exact release_slots _ s

/-- The abort under `io_fault` keeps some of the oldest bytes of the transmit path and releases (R236). -/
theorem abortStep_of_fault {s : State} (hp : s.ma.phase ≠ .idle) (hf : s.line.ioFault = true) :
    abortStep s = (release ⟨true, .transportFault, false, []⟩
      (s.withLine { s.line with txq := s.line.txq.take (Config.keptPrefix s.freeCtr) })).useFree :=
  if_pos ⟨hp, hf⟩

/-- There is no other abort. -/
theorem abortStep_of_not {s : State} (h : s.ma.phase = .idle ∨ s.line.ioFault = false) : abortStep s = s :=
  if_neg (by rcases h with h | h <;> simp [h])

/-- Settles O31. -/
theorem abortReleasesLock : Obligations.AbortReleasesLock := by
  refine fun s => ⟨fun hp hf => ⟨abortStep s, rfl, ?_⟩, fun h => congrArg Host.Outcome.next (abortStep_of_not h)⟩
  rw [abortStep_of_fault hp hf]
  exact ⟨rfl, List.take_prefix _ _, release_slots _ (s.withLine _)⟩

/-! ### The environment (R41 to R45, R243) -/

/-- A tick on which the watchdog does not expire moves `NOW` and the watchdog only. -/
theorem tickStep_of_not_expired {c : Params} {s : State} (h : wdExpired c (wdTick c s.wd) = false) :
    tickStep c s = { s with now := (s.now + 1) % 2 ^ c.tickW, wd := wdTick c s.wd } :=
  if_neg (by simpa using h)

/-- A watchdog that is not armed does not count. -/
theorem wdTick_of_not_armed (c : Params) {w : WatchdogState} (h : w.armed = false) : wdTick c w = w := by
  simp [wdTick, h]

/-- While the watchdog is not armed a tick moves `NOW` only. -/
theorem tickStep_of_not_armed (c : Params) {s : State} (h : s.wd.armed = false) :
    tickStep c s = { s with now := (s.now + 1) % 2 ^ c.tickW } := by
  have hx : wdExpired c (wdTick c s.wd) = false := by simp [wdTick_of_not_armed c h, wdExpired, h]
  rw [tickStep_of_not_expired hx, wdTick_of_not_armed c h]

/-- Settles O43. -/
theorem environmentSteps : Obligations.EnvironmentSteps := by
  refine fun b f s => ⟨rfl, fun x rest hq => congrArg Host.Outcome.next ?_, rfl, rfl,
    fun h => congrArg Host.Outcome.next (tickStep_of_not_armed _ h),
    fun h => ⟨_, congrArg Host.Outcome.next (tickStep_of_not_expired h)⟩⟩
  simp [serialiseStep, hq, State.withLine]

end Sys2Proof.Machine
end

section
/-! What one step of MA can do, as one case per row of R242's table (spec/43_bus_arbiter.md), and the laws of MA that follow from
it for a move of any agent. -/

namespace Sys2Proof.Machine

/-! ### The step of MA by its cases (R242) -/

/-- What MA's own step can do in a phase. -/
inductive PhaseStep (c : Params) (s : State) : State → Prop where
  /-- MA waits -/
  | wait : PhaseStep c s s
  | drain (hp : s.ma.phase = .drain) : PhaseStep c s (drainStep s)
  | push (b : Byte) (hp : s.ma.phase = .write) (hi : s.ma.txidx < s.ma.txflen) : PhaseStep c s
      ((s.withLine { s.line with txq := s.line.txq ++ [b] }).withMa { s.ma with txidx := s.ma.txidx + 1 })
  | endWrite (hp : s.ma.phase = .write) (hi : s.ma.txidx = s.ma.txflen) : PhaseStep c s (endWriteStep s)
  | flush (hp : s.ma.phase = .flush) (hq : s.line.txq = []) : PhaseStep c s (flushStep s)
  | take (b : Byte) (rest : List Byte) (hp : s.ma.phase = .recv) : PhaseStep c s (takeByte c b rest s)
  | finish (hp : s.ma.phase = .recv)
      (hf : deadlineReached c s = true ∨ (s.line.rxfifo = [] ∧ dataStopped c s = true)) :
      PhaseStep c s (finishStep s)

/-- The write phase pushes, ends or waits (R229). -/
theorem writeStep_phaseStep {c : Params} {s t : State} (hp : s.ma.phase = .write) (h : writeStep s = .next t) :
    PhaseStep c s t := by
  unfold writeStep at h
  split at h
  · next hi =>
    split at h
    · unfold pushStep at h
      split at h <;> cases h
      exact .push _ hp hi
    · cases h; exact .wait
  · split at h
    · next hi => cases h; exact .endWrite hp hi
    · cases h; exact .wait

/-- The receive phase finishes, takes a byte or polls again (R231). -/
theorem receiveStep_phaseStep {c : Params} {s : State} (hp : s.ma.phase = .recv) :
    PhaseStep c s (receiveStep c s) := by
  unfold receiveStep
  split
  · next hd => exact .finish hp (.inl hd)
  · split
    · exact .take _ _ hp
    · next hb =>
      split
      · next hs => exact .finish hp (.inr ⟨hb, hs⟩)
      · exact .wait

/-- MA's step is one of the cases. -/
theorem maStep_phaseStep {c : Params} {s t : State} (h : maStep c s = .next t) : PhaseStep c s t := by
  unfold maStep at h
  split at h
  · cases h; exact .wait
  · next hp => cases h; exact .drain hp
  · next hp => exact writeStep_phaseStep hp h
  · next hp =>
    cases h
    by_cases hq : s.line.txq = []
    · exact .flush hp hq
    · rw [flushStep_of_not_idle hq]; exact .wait
  · next hp => cases h; exact receiveStep_phaseStep hp

/-! ### What the cases leave alone -/

/-- Taking a byte leaves the phase and the requests (R231). -/
theorem takeByte_keeps (c : Params) (b : Byte) (rest : List Byte) (s : State) :
    (takeByte c b rest s).ma.phase = s.ma.phase ∧ (takeByte c b rest s).ma.req = s.ma.req := by
  unfold takeByte
  split <;> exact ⟨rfl, rfl⟩

/-- Requests depend on MA's slots only. -/
theorem reqOf_congr {s t : State} (h : t.ma.req = s.ma.req) (i : Nat) : t.reqOf i = s.reqOf i := by
  rw [State.reqOf, h, State.reqOf]

/-- MA's step leaves every request, or finishes (R235). -/
theorem PhaseStep.reqs {c : Params} {s t : State} (h : PhaseStep c s t) :
    t.ma.req = s.ma.req ∨ (s.ma.phase = .recv ∧ t = finishStep s) := by
  cases h with
  | wait | drain | push | endWrite => exact .inl rfl
  | flush hp hq => rw [flushStep_of_idle hq]; exact .inl rfl
  | take b rest => exact .inl (takeByte_keeps c b rest s).2
  | finish hp => exact .inr ⟨hp, rfl⟩

/-- A grant leaves every request and the line (R227). -/
theorem grantStep_keeps (i : Nat) (s : State) :
    (grantStep i s).ma.req = s.ma.req ∧ (grantStep i s).line = s.line := by
  unfold grantStep
  split <;> exact ⟨rfl, rfl⟩

/-! ### The laws of MA -/

/-- Outside IDLE the lock is held (R30, R241). -/
theorem Inv.lock_of_phase {c : Params} {s : State} (hs : Inv c s) (h : s.ma.phase ≠ .idle) : s.ma.lock = true :=
  Bool.of_not_eq_false (mt hs.lock_iff.1 h)

/-- Settles O34: a move that changes the phase is a grant, a case of MA's step, an abort, or a reset. -/
theorem phaseFollowsTable : Obligations.PhaseFollowsTable := by
  intro e s t hs h hne
  cases runEvent_move h with
  | none hm | flags hm | post _ _ _ _ _ _ hm => rw [hm] at hne; exact absurd rfl hne
  | peer b he ht => subst ht; exact absurd rfl hne
  | serialise he ht => subst ht; exact absurd (by rw [serialiseStep_ma]) hne
  | grant i he ht =>
    subst ht
    by_cases hg : s.ma.lock = true ∨ (s.reqOf i).pending = false
    · rw [grantStep_of_not hg] at hne; exact absurd rfl hne
    · simp only [not_or, Bool.not_eq_true, Bool.not_eq_false] at hg
      rw [grantStep_of_free hg.1 hg.2]
      exact .inr (.inl ⟨i, he, hs.lock_iff.1 hg.1, hg.1, hg.2, rfl⟩)
  | phase he ht =>
    cases maStep_phaseStep ht with
    | wait | push => exact absurd rfl hne
    | take b rest => exact absurd (takeByte_keeps _ b rest s).1 hne
    | drain hp => exact .inr (.inr (.inl ⟨he, hp, rfl⟩))
    | endWrite hp hi => exact .inr (.inr (.inr (.inl ⟨he, hp, hi, rfl⟩)))
    | flush hp hq => exact .inr (.inr (.inr (.inr (.inl ⟨he, hp, hq, by rw [flushStep_of_idle hq]⟩))))
    | finish hp hf => exact .inr (.inr (.inr (.inr (.inr (.inl ⟨he, hp, hf, rfl⟩)))))
  | abort he ht =>
    subst ht
    by_cases ha : s.ma.phase = .idle ∨ s.line.ioFault = false
    · rw [abortStep_of_not ha] at hne; exact absurd rfl hne
    · simp only [not_or, Bool.not_eq_false] at ha
      rw [abortStep_of_fault ha.1 ha.2]
      exact .inr (.inr (.inr (.inr (.inr (.inr ⟨he, ha.2, rfl⟩)))))
  | reset he => exact .inl he

/-- A release leaves a pending request, unless it is the owner's, which it ends with a valid result (R235, R236). -/
theorem release_pending {r : ResSlot} {s : State} (hr : r.valid = true) (i : Nat) :
    (release r s).reqOf i = s.reqOf i ∨ (i = s.ma.owner ∧ ((release r s).resOf i).valid = true
      ∧ (release r s).reqOf i = { s.reqOf i with pending := false }) := by
  obtain ⟨hres, hreq, hother⟩ := release_slots r s
  by_cases hi : i = s.ma.owner
  · subst hi
    exact .inr ⟨rfl, by rw [hres, hr], hreq⟩
  · exact .inl (hother i hi).1

/-- Settles O35: only a post and a release write a request; the post is another requester's, and the release is that of the
owner. -/
theorem pendingRequestNotCancelled : Obligations.PendingRequestNotCancelled := by
  intro e s t i hs h hpend
  cases runEvent_move h with
  | none hm | flags hm => exact .inl (reqOf_congr (by rw [hm]) i)
  | peer b he ht => subst ht; exact .inl rfl
  | serialise he ht => subst ht; exact .inl (reqOf_congr (by rw [serialiseStep_ma]) i)
  | post j f tmo hp hf hn hm =>
    have hij : i ≠ j := by rintro rfl; simp [hpend] at hn
    have hreq : t.reqOf i = (postState Config.params j f tmo s).reqOf i := reqOf_congr (by rw [hm]) i
    rw [hreq, postState_reqOf, if_neg hij]
    exact .inl rfl
  | grant j he ht => subst ht; exact .inl (reqOf_congr (grantStep_keeps j s).1 i)
  | phase he ht =>
    obtain hreq | ⟨hp, rfl⟩ := (maStep_phaseStep ht).reqs
    · exact .inl (reqOf_congr hreq i)
    · have hl := hs.lock_of_phase (by simp [hp])
      rw [finishStep_eq]
      exact (release_pending rfl i).imp_right fun ⟨ho, hv, hreq⟩ => .inl ⟨ho, hl, rfl, hv, hreq⟩
  | abort he ht =>
    subst ht
    by_cases ha : s.ma.phase = .idle ∨ s.line.ioFault = false
    · rw [abortStep_of_not ha]; exact .inl rfl
    · simp only [not_or, Bool.not_eq_false] at ha
      have hl := hs.lock_of_phase ha.1
      rw [abortStep_of_fault ha.1 ha.2]
      exact (release_pending (s := s.withLine _) rfl i).imp_right fun ⟨ho, hv, hreq⟩ => .inl ⟨ho, hl, rfl, hv, hreq⟩
  | reset he => exact .inr (.inr he)

/-- Settles O36: with the lock free MA is in IDLE, where its step and the abort do nothing; a grant takes the lock and leaves the
line, and the serialiser and the peer do what they always may. -/
theorem lineAccessedOnlyUnderLock : Obligations.LineAccessedOnlyUnderLock := by
  intro e s t hs hl h hreset
  have hidle : s.ma.phase = .idle := hs.lock_iff.1 hl
  have hsame : ∀ {u : State}, u.line = s.line →
      s.line.rxfifo <+: u.line.rxfifo ∧ u.line.wire ++ u.line.txq = s.line.wire ++ s.line.txq := by
    intro u hu
    rw [hu]
    exact ⟨List.prefix_rfl, rfl⟩
  cases runEvent_move h with
  | none _ hline | post _ _ _ _ _ _ _ hline => exact hsame hline
  | peer b he ht => subst ht; exact ⟨List.prefix_append _ _, rfl⟩
  | serialise he ht =>
    subst ht
    refine ⟨?_, serialiseStep_handed s⟩
    unfold serialiseStep
    split <;> exact List.prefix_rfl
  | flags _ hr hq hw => exact ⟨by rw [hr], by rw [hq, hw]⟩
  | grant i he ht => subst ht; exact hsame (grantStep_keeps i s).2
  | phase he ht => rw [maStep_of_idle hidle] at ht; cases ht; exact hsame rfl
  | abort he ht => subst ht; exact hsame (by rw [abortStep_of_not (.inl hidle)])
  | reset he => rw [hreset] at he; cases he

/-- Settles O37: the other request is as it was posted, for it is not the owner's, and the lock is free. -/
theorem anotherRequesterGrantedAfterwards : Obligations.AnotherRequesterGrantedAfterwards := by
  intro e s t b hs hl he h hfree hb hpend
  have hreset : resetsDevice Config.params e s = false := by rcases he with rfl | rfl <;> rfl
  have hreq : t.reqOf b = s.reqOf b := by
    obtain hreq | ⟨ho, -⟩ | hr := pendingRequestNotCancelled e s t b hs h hpend
    · exact hreq
    · exact absurd ho hb
    · rw [hreset] at hr; cases hr
  refine ⟨_, (grantTakesFreeLock b t).1 hfree (by rw [hreq, hpend]), rfl, rfl, rfl, ?_, by rw [hreq]⟩
  rw [hreq, List.take_left]

/-! ### Timeouts (R232, R240, R245) -/

/-- The receive step at the deadline ends the transaction. -/
theorem runEvent_ma_of_deadline {s : State} (hp : s.ma.phase = .recv) (h : deadlineReached Config.params s = true) :
    runEvent .ma s = .next (finishStep s) :=
  (maStep_of_recv hp).trans (congrArg Host.Outcome.next (receiveStep_of_deadline h))

/-- A run of one event. -/
theorem runEvents_single (e : Ev) {s t : State} (h : runEvent e s = .next t) : runEvents [e] s = .next t := by
  simp only [runEvents, h]

/-- The first event of a run. -/
theorem runEvents_cons {e : Ev} (es : List Ev) {s t : State} (h : runEvent e s = .next t) :
    runEvents (e :: es) s = runEvents es t := by
  simp only [runEvents, h]

/-- A timeout of 0 is reached at once. -/
theorem deadlineReached_of_zero {c : Params} {s : State} (h : s.ma.tmo = 0) : deadlineReached c s = true := by
  simp [deadlineReached, h]

/-- Settles O32: the flush samples `T0`, and no time has to pass for a timeout of 0. The order of the sent bytes says that the
frame, pushed whole, is the last that left. -/
theorem zeroTimeoutFinishesEmpty : Obligations.ZeroTimeoutFinishesEmpty := by
  intro s hs hsent hp hq htmo
  have hflush := (drainAndFlushSteps s).2.1 hp hq
  refine ⟨_, (runEvents_cons _ hflush).trans (runEvents_single _ (runEvent_ma_of_deadline ?_ ?_)), rfl, rfl, rfl, ?_, ?_⟩
  · rfl
  · exact deadlineReached_of_zero htmo
  · rw [finishStep_eq]
    exact (release_slots _ _).1
  · have hlast := hsent (.inr (.inl hp))
    rwa [hs.index_eq (.inl hp), hq, List.append_nil] at hlast

/-- Elapsed time counts the ticks, modulo `2^TICK_W`. -/
theorem elapsed_add (c : Params) (now n t : Nat) :
    elapsed c ((now + n) % 2 ^ c.tickW) t = (elapsed c now t + n) % 2 ^ c.tickW := by
  have ht : t % 2 ^ c.tickW ≤ 2 ^ c.tickW := Nat.le_of_lt (Nat.mod_lt _ (Nat.two_pow_pos _))
  rw [elapsed, elapsed, Nat.add_sub_assoc ht, Nat.add_sub_assoc ht, Nat.mod_add_mod, Nat.mod_add_mod,
    Nat.add_right_comm]

/-- Ticks of a device whose watchdog is not armed move `NOW` only. -/
theorem runEvents_ticks {s : State} (hw : s.wd.armed = false) (hn : s.now < 2 ^ Config.params.tickW) (n : Nat)
    (es : List Ev) : runEvents (List.replicate n .tick ++ es) s
      = runEvents es (s.withNow ((s.now + n) % 2 ^ Config.params.tickW)) := by
  induction n generalizing s with
  | zero => rw [Nat.add_zero, Nat.mod_eq_of_lt hn]; rfl
  | succ n ih =>
    have htick : runEvent .tick s = .next (s.withNow ((s.now + 1) % 2 ^ Config.params.tickW)) :=
      congrArg Host.Outcome.next (tickStep_of_not_armed _ hw)
    have hrest := ih (s := s.withNow ((s.now + 1) % 2 ^ Config.params.tickW)) hw (Nat.mod_lt _ (Nat.two_pow_pos _))
    have hnow : ((s.now + 1) % 2 ^ Config.params.tickW + n) % 2 ^ Config.params.tickW
        = (s.now + (n + 1)) % 2 ^ Config.params.tickW := by rw [Nat.mod_add_mod, Nat.add_assoc, Nat.add_comm 1]
    rw [State.withNow_now, hnow] at hrest
    exact (runEvents_cons _ htick).trans hrest

/-- The ticks that are missing to the deadline bring it, for `TMO` is less than `2^TICK_W` (R232). -/
theorem deadlineReached_after_ticks {c : Params} {s : State} (h : s.ma.tmo < 2 ^ c.tickW) :
    deadlineReached c (s.withNow ((s.now + (s.ma.tmo - elapsed c s.now s.ma.t0)) % 2 ^ c.tickW)) = true := by
  have helapsed : elapsed c s.now s.ma.t0 < 2 ^ c.tickW := Nat.mod_lt _ (Nat.two_pow_pos _)
  rw [deadlineReached, decide_eq_true_eq, State.withNow_now, State.withNow_ma, elapsed_add, Nat.mod_eq_of_lt (by omega)]
  omega

/-- Settles O38: the ticks that are missing to the deadline are at most `TMO`. -/
theorem receiveEndsWithinTimeout : Obligations.ReceiveEndsWithinTimeout := by
  intro s hs hp hw
  obtain ⟨hnow, htmo, -, -⟩ := hs.ticks
  have hfinish := runEvent_ma_of_deadline (by exact hp) (deadlineReached_after_ticks htmo)
  refine ⟨_, Nat.sub_le _ _, _, (runEvents_ticks hw hnow _ _).trans (runEvents_single _ hfinish), rfl, rfl, ?_⟩
  rw [finishStep_eq]
  exact congrArg ResSlot.valid (release_slots _ (s.withNow _)).1

end Sys2Proof.Machine
end

section
/-! What a port refuses and what waits (spec/43_bus_arbiter.md R221 to R224, spec/20_memory.md R82, spec/44_host_sequences.md
R260 and R273; RF1, RF2; log 16, log 29, log 35, log 44). -/

namespace Sys2Proof.Machine

/-! ### At the port -/

/-- A sequence longer than a finite capacity fits no buffer of it. -/
theorem fits_eq_false {m : Nat} {x : List Byte} (h : m < x.length) : fits (some m) x = false :=
  Bool.eq_false_iff.2 fun hx => Nat.not_le.2 h (withinCap_iff.1 (withinCap_of_fits hx) m rfl)

section

variable {c : Params} {i : Nat} {s : State}

theorem post_of_no_port (f : List Byte) (tmo : Nat) (h : portExists c i = false) :
    post c i f tmo s = .refused .noSuchRequester := by
  simp [post, h]

theorem post_of_pending (f : List Byte) (tmo : Nat) (h : portExists c i = true) (hp : (s.reqOf i).pending = true) :
    post c i f tmo s = .refused .requesterBusy := by
  simp [post, h, State.blocked, hp]

theorem post_of_too_long {f : List Byte} (tmo : Nat) (h : portExists c i = true) (hp : (s.reqOf i).pending = false)
    (hf : fits c.txfMax f = false) : post c i f tmo s = .refused .operandTooLong := by
  simp [post, h, State.blocked, hp, hf]

theorem startCall_of_no_port (call : HostCall) (h : portExists c i = false) :
    startCall c i call s = .refused .noSuchRequester := by
  simp [startCall, h]

/-- A context that is blocked, or in a sequence, can begin none (R224, R260). -/
theorem startCall_of_busy (call : HostCall) (h : portExists c i = true)
    (hb : (s.reqOf i).pending = true ∨ s.taskOf i ≠ .idle) : startCall c i call s = .refused .requesterBusy := by
  have hfree : s.ctxFree i = false := by rcases hb with hb | hb <;> simp [State.ctxFree, State.blocked, hb]
  simp [startCall, h, hfree]

/-- A context presents at its own port only (R221). -/
theorem issueOp_of_other_port {j : Nat} {o : Instr} {rest : List Byte} (hd : decode s.cmds = .ok (o, rest))
    (hp : (s.reqOf j).pending = false) (ho : portOf o = some i) (hij : j ≠ i) :
    issueOp (some j) s = .refused .noSuchRequester := by
  have hown : ownPort (some j) o = false := by simp [ownPort, ho, Ne.symm hij]
  simp [issueOp, isEmpty_eq_false_of_decode hd, State.mayPresent, State.blocked, hp, hd, hown]

end

/-! ### The operations that use a requester's port -/

section

variable {i tmo : Nat} {op : BitVec 4} {p : List Byte} {n : BitVec 16} {o : Instr}

/-- The three operations that begin a sequence are a call at their requester's port. -/
theorem exec_of_begins (h : o ∈ [Instr.getstate i tmo, .randomplay i tmo n, .cmd i op p tmo]) :
    portOf o = some i ∧ startsSequence o = true ∧ ∃ call, ∀ s, exec o s = startCall Config.params i call s := by
  simp only [List.mem_cons, List.not_mem_nil, or_false] at h
  rcases h with rfl | rfl | rfl
  · exact ⟨rfl, rfl, .getstate tmo, fun _ => rfl⟩
  · exact ⟨rfl, rfl, .randomplay tmo n.toNat, fun _ => rfl⟩
  · exact ⟨rfl, rfl, .cmd op p tmo, fun _ => rfl⟩

/-- An operation that begins a sequence is refused to a context that cannot begin one. -/
theorem exec_begins_of_busy (h : o ∈ [Instr.getstate i tmo, .randomplay i tmo n, .cmd i op p tmo]) {s : State}
    (hport : Config.params.hasPort i = true) (hb : (s.reqOf i).pending = true ∨ s.taskOf i ≠ .idle) :
    exec o s = .refused .requesterBusy := by
  obtain ⟨-, -, call, hcall⟩ := exec_of_begins h
  rw [hcall, startCall_of_busy call hport hb]

/-- It waits in the stream of a context that is in a sequence (R260, log 16). -/
theorem issueOp_begins_of_task (h : o ∈ [Instr.getstate i tmo, .randomplay i tmo n, .cmd i op p tmo]) {s : State}
    {rest : List Byte} (ht : s.taskOf i ≠ .idle) (hd : decode s.cmds = .ok (o, rest)) :
    issueOp (some i) s = .next s := by
  obtain ⟨hown, hstarts, -⟩ := exec_of_begins h
  exact issueOp_of_not_inOrder hd (by simp [ownPort, hown]) (by simp [inOrder, hstarts, ht])

/-- All four need a port (R221). -/
theorem exec_of_no_port {x : List Byte}
    (h : o ∈ [Instr.xfer i x tmo, .getstate i tmo, .randomplay i tmo n, .cmd i op p tmo]) (s : State)
    (hport : Config.params.hasPort i = false) : exec o s = .refused .noSuchRequester := by
  obtain rfl | h := List.mem_cons.1 h
  · exact post_of_no_port x tmo hport
  · obtain ⟨-, -, call, hcall⟩ := exec_of_begins h
    rw [hcall, startCall_of_no_port call hport]

/-- All four are taken at their requester's own port only (R221). -/
theorem issueOp_xfer_or_begins_of_other {x : List Byte}
    (h : o ∈ [Instr.xfer i x tmo, .getstate i tmo, .randomplay i tmo n, .cmd i op p tmo]) {s : State} {j : Nat}
    {rest : List Byte} (hij : j ≠ i) (hp : (s.reqOf j).pending = false) (hd : decode s.cmds = .ok (o, rest)) :
    issueOp (some j) s = .refused .noSuchRequester := by
  have hown : portOf o = some i := by
    obtain rfl | h := List.mem_cons.1 h
    · rfl
    · exact (exec_of_begins h).1
  exact issueOp_of_other_port hd hp hown hij

end

/-! ### What waits -/

/-- A blocked context makes no read (R223). -/
theorem portReadStep_of_blocked (c : Params) {who : Option Nat} (r : PortReg) {s : State}
    (h : s.mayPresent who = false) : portReadStep c who r s = .next s := by
  simp [portReadStep, h]

/-- A task takes no step while another has the processor (R273). -/
theorem mayRun_of_processor {c : Params} {i : Nat} {k : HostTask} {s : State} (h : s.processor = some k)
    (hi : i ≠ c.trigReq) (hk : k ≠ .requester i) : s.mayRun c i = false := by
  rw [Bool.eq_false_iff, Ne, State.mayRun_task hi, h]
  simpa using hk

/-- WeightReplyService neither. -/
theorem serviceStep_of_processor (c : Params) {k : HostTask} {s : State} (h : s.processor = some k)
    (hk : k ≠ .weightReply) : serviceStep c s = .next s := by
  simp [serviceStep, State.serviceMayRun, h, hk]

/-- Settles O25, clause by clause. -/
theorem portsRefuse : Obligations.PortsRefuse := by
  intro i m tmo x p op n r k s begins
  refine ⟨fun hp => ⟨fun hport o ho => ?_, ?_, ?_, hostStep_waits (.inr hp)⟩,
    fun ht o ho => ⟨fun hport => ?_, fun rest hd => ?_⟩,
    fun o ho => ⟨fun hport => ?_, fun j rest hij hp hd => ?_⟩,
    fun hlen => ⟨fun hm => ⟨?_, ?_⟩, fun hm => ⟨?_, ?_⟩, fun hm hi hp => ?_⟩,
    fun hk => ⟨fun hi hne => ?_, fun hne => ?_⟩⟩
  -- a blocked requester
  · obtain rfl | ho := List.mem_cons.1 ho
    · exact post_of_pending x tmo hport hp
    · exact exec_begins_of_busy ho hport (.inl hp)
  · exact issueOp_of_blocked (by simp [State.mayPresent, State.blocked, hp])
  · exact portReadStep_of_blocked _ r (by simp [State.mayPresent, State.blocked, hp])
  -- a context in a sequence
  · exact exec_begins_of_busy ho hport (.inr ht)
  · exact issueOp_begins_of_task ho ht hd
  -- the port
  · exact exec_of_no_port ho s hport
  · exact issueOp_xfer_or_begins_of_other ho hij hp hd
  -- an operand that is too long
  · exact if_neg (by simp [hm, fits_eq_false hlen])
  · exact if_neg (by simp [hm, fits_eq_false hlen])
  · exact if_neg (by simp [hm, fits_eq_false hlen])
  · exact if_neg (by simp [hm, fits_eq_false hlen])
  · exact post_of_too_long tmo (portExists_of_lt hi) hp (by rw [hm, fits_eq_false hlen])
  -- the processor
  · exact hostStep_waits (.inl (mayRun_of_processor hk hi hne))
  · exact serviceStep_of_processor _ hk hne

end Sys2Proof.Machine
end

section
/-! The invariant is kept by every step (spec/43_bus_arbiter.md R241; spec/10_state.md R28 to R36, R39; spec/44_host_sequences.md
R267, R273). First what each kind of change has to respect: of a unit's buffers, of MA, of a context's place in its sequence; then
every operation and every move is made of such changes. -/

namespace Sys2Proof.Machine

/-! ### Changes the invariant does not speak of, and changes of one unit -/

/-- Nothing but what the invariant does not speak of. -/
def OutsideInv (s t : State) : Prop := t = { s with
  xg := t.xg, sg := t.sg, line := t.line, bridge := t.bridge, wd := t.wd, cmds := t.cmds, agenda := t.agenda
  freeCtr := t.freeCtr, host := { s.host with edgePending := t.host.edgePending, readout := t.host.readout } }

section

variable {c : Params} {s t : State} (h : Inv c s)
include h

theorem Inv.of_outside (ht : OutsideInv s t) : Inv c t := by
  rw [ht]
  exact { h with buffers := h.buffers }

theorem Inv.of_onlyFe (ht : OnlyFe s t) (hw : t.fe.bufWf) : Inv c t := by
  obtain ⟨-, hfd, hhe, hhd, hma⟩ := (Memory.wf_iff c s).1 h.buffers
  rw [ht]
  exact { h with buffers := (Memory.wf_iff c _).2 ⟨hw, hfd, hhe, hhd, hma⟩ }

theorem Inv.of_onlyFd (ht : OnlyFd s t) (hw : t.fd.bufWf c) : Inv c t := by
  obtain ⟨hfe, -, hhe, hhd, hma⟩ := (Memory.wf_iff c s).1 h.buffers
  rw [ht]
  exact { h with buffers := (Memory.wf_iff c _).2 ⟨hfe, hw, hhe, hhd, hma⟩ }

theorem Inv.of_onlyHe (ht : OnlyUnit .he s t) (hw : t.he.bufWf) (he : t.he.err = .noError) : Inv c t := by
  obtain ⟨hfe, hfd, -, hhd, hma⟩ := (Memory.wf_iff c s).1 h.buffers
  rw [ht]
  exact { h with buffers := (Memory.wf_iff c _).2 ⟨hfe, hfd, hw, hhd, hma⟩, he_err := he }

theorem Inv.of_onlyHd (ht : OnlyHd s t) (hw : t.hd.bufWf c) : Inv c t := by
  obtain ⟨hfe, hfd, hhe, -, hma⟩ := (Memory.wf_iff c s).1 h.buffers
  rw [ht]
  exact { h with buffers := (Memory.wf_iff c _).2 ⟨hfe, hfd, hhe, hw, hma⟩ }

/-! ### The operations of the units -/

theorem fencOp_inv (sel : Nat) (p : List Byte) : Inv c (fencOp c sel p s) :=
  h.of_onlyFe (fencOp_only c sel p s) (fencOp_bufWf c sel p ((Memory.wf_iff c s).1 h.buffers).1)

theorem fparseOp_inv {bs : List Byte} (hfit : fits c.respMax bs = true) : Inv c (fparseOp c bs s) := by
  obtain ⟨-, hfd, -⟩ := (Memory.wf_iff c s).1 h.buffers
  exact h.of_onlyFd (fparseOp_only c bs s) (fparseOp_bufWf hfit hfd)

theorem fdecOp_inv {r : List Byte} (hfit : fits c.respMax r = true) : Inv c (fdecOp c r s) := by
  obtain ⟨-, hfd, -⟩ := (Memory.wf_iff c s).1 h.buffers
  exact h.of_onlyFd (fdecOp_only c r s) (fdecOp_bufWf hfit hfd)

theorem hexlifyOp_inv (bs : List Byte) : Inv c (hexlifyOp c bs s) := by
  obtain ⟨-, -, hhe, -⟩ := (Memory.wf_iff c s).1 h.buffers
  exact h.of_onlyHe rfl (hexlifyOp_bufWf c bs hhe) rfl

theorem hencOp_inv (w : Word32) : Inv c (hencOp c w s) := by
  obtain ⟨-, -, hhe, -⟩ := (Memory.wf_iff c s).1 h.buffers
  exact h.of_onlyHe rfl (hencOp_bufWf c w hhe) rfl

theorem unhexOp_inv {x : List Byte} (hfit : fits c.txtMax x = true) : Inv c (unhexOp x s) := by
  obtain ⟨-, -, -, hhd, -⟩ := (Memory.wf_iff c s).1 h.buffers
  exact h.of_onlyHd (unhexOp_only x s) (unhexOp_bufWf hfit hhd)

theorem hdecOp_inv {x : List Byte} (hfit : fits c.txtMax x = true) : Inv c (hdecOp x s) := by
  obtain ⟨-, -, -, hhd, -⟩ := (Memory.wf_iff c s).1 h.buffers
  exact h.of_onlyHd (hdecOp_only x s) (hdecOp_bufWf hfit hhd)

end

/-! ### Changes of MA -/

/-- The clauses of the invariant on MA alone (R241, R223, R34 to R36). -/
structure MaInv (c : Params) (s : State) : Prop where
  buffers : s.ma.bufWf c
  lock_iff : s.ma.lock = false ↔ s.ma.phase = .idle
  owner_pending : s.ma.lock = true → (s.reqOf s.ma.owner).pending = true
  pending_port : ∀ i, (s.reqOf i).pending = true → portExists c i = true ∧ (s.resOf i).valid = false
  slots_fit : ∀ i, withinCap c.txfMax (s.reqOf i).frame.length = true ∧ (s.reqOf i).tmo < 2 ^ c.tickW
    ∧ withinCap c.respMax (s.resOf i).bytes.length = true
  index_le : s.ma.txidx ≤ s.ma.txflen
  index_idle : s.ma.phase = .idle → s.ma.txidx = 0
  index_eq : s.ma.phase = .flush ∨ s.ma.phase = .recv → s.ma.txidx = s.ma.txflen
  samples : s.ma.tmo < 2 ^ c.tickW ∧ s.ma.t0 < 2 ^ c.tickW ∧ s.ma.tlast < 2 ^ c.tickW
  tables : Table.wf s.ma.req ∧ Table.wf s.ma.res

theorem Inv.ma {c : Params} {s : State} (h : Inv c s) : MaInv c s := by
  obtain ⟨-, -, -, -, hbuf⟩ := (Memory.wf_iff c s).1 h.buffers
  obtain ⟨hreq, hres, -⟩ := h.tables
  exact { h with buffers := hbuf, samples := h.ticks.2, tables := ⟨hreq, hres⟩ }

/-- They speak of MA's registers only. -/
theorem MaInv.congr {c : Params} {s t : State} (h : MaInv c s) (hm : t.ma = s.ma) : MaInv c t := by
  obtain ⟨xg, sg, fe, fd, he, hd, ma, line, now, bridge, wd, host, cmds, agenda, freeCtr⟩ := t
  obtain rfl : ma = s.ma := hm
  exact { h with buffers := h.buffers }

/-- Requester `i` has asked: its request is pending, or its result has come (R223). -/
def State.asked (s : State) (i : Nat) : Prop := (s.reqOf i).pending = true ∨ (s.resOf i).valid = true

/-- Nothing but MA, the line and the free values. -/
def OnlyMa (s t : State) : Prop := t = { s with ma := t.ma, line := t.line, freeCtr := t.freeCtr }

/-- A change of MA that keeps its clauses and forgets no request keeps the invariant. -/
theorem Inv.of_onlyMa {c : Params} {s t : State} (h : Inv c s) (ht : OnlyMa s t) (hm : MaInv c t)
    (hasked : ∀ i, s.asked i → t.asked i) : Inv c t := by
  obtain ⟨hfe, hfd, hhe, hhd, -⟩ := (Memory.wf_iff c s).1 h.buffers
  obtain ⟨-, -, htask, hresult⟩ := h.tables
  have hxfer := fun i hx => hasked i (h.in_xfer i hx)
  rw [ht] at hm hxfer ⊢
  exact { hm, h with
    buffers := (Memory.wf_iff c _).2 ⟨hfe, hfd, hhe, hhd, hm.buffers⟩
    ticks := ⟨h.ticks.1, hm.samples⟩
    in_xfer := hxfer
    tables := ⟨hm.tables.1, hm.tables.2, htask, hresult⟩ }

section

variable {c : Params} {s t : State}

/-- The clauses on the index and the lock in a phase that is not IDLE, while the lock is held: the index is within the frame, and
at its end from the flush on. -/
theorem MaInv.of_phase (h : MaInv c s) {p : Phase} (hs : s.ma.phase ≠ .idle) (hp : p ≠ .idle) {n : Nat}
    (hle : n ≤ s.ma.txflen) (heq : p = .flush ∨ p = .recv → n = s.ma.txflen) :
    MaInv c (s.withMa { s.ma with phase := p, txidx := n }) :=
  { h with
    buffers := h.buffers
    lock_iff := iff_of_false (mt h.lock_iff.1 hs) hp
    index_le := hle
    index_idle := fun hi => absurd hi hp
    index_eq := heq }

/-- A release ends the owner's tenure with a result that fits its slot. -/
theorem release_maInv (h : MaInv c s) {r : ResSlot} (hfit : withinCap c.respMax r.bytes.length = true) :
    MaInv c (release r s) where
  buffers := h.buffers
  lock_iff := ⟨fun _ => rfl, fun _ => rfl⟩
  owner_pending hl := by cases hl
  pending_port i := by
    rw [release_reqOf, release_resOf]
    split
    · simp
    · exact h.pending_port i
  slots_fit i := by
    rw [release_reqOf, release_resOf]
    obtain ⟨hframe, htmo, hbytes⟩ := h.slots_fit i
    split
    · next hi => subst hi; exact ⟨hframe, htmo, hfit⟩
    · exact ⟨hframe, htmo, hbytes⟩
  index_le := Nat.zero_le _
  index_idle _ := rfl
  index_eq hp := by rcases hp with hp | hp <;> cases hp
  samples := h.samples
  tables := ⟨Table.wf_put h.tables.1 _ _, Table.wf_put h.tables.2 _ _⟩

/-- A release with a valid result forgets no request. -/
theorem release_asked {r : ResSlot} (hv : r.valid = true) {i : Nat} (h : s.asked i) : (release r s).asked i := by
  unfold State.asked
  rw [release_reqOf, release_resOf]
  split
  · exact .inr hv
  · exact h

/-- Taking a byte writes MA and the line (R231). -/
theorem takeByte_only (c : Params) (b : Byte) (rest : List Byte) (s : State) : OnlyMa s (takeByte c b rest s) := by
  unfold takeByte
  split <;> rfl

/-- Taking a byte keeps the clauses on MA: it samples `NOW` (R231, R234). -/
theorem takeByte_maInv (h : MaInv c s) (hnow : s.now < 2 ^ c.tickW) (b : Byte) (rest : List Byte) :
    MaInv c (takeByte c b rest s) := by
  have hbuf := takeByte_bufWf b rest h.buffers
  obtain ⟨htmo, ht0, -⟩ := h.samples
  unfold takeByte at hbuf ⊢
  split at hbuf
  · next hr => rw [if_pos hr]; exact { h with buffers := hbuf, samples := ⟨htmo, ht0, hnow⟩ }
  · next hr => rw [if_neg hr]; exact { h with buffers := hbuf, samples := ⟨htmo, ht0, hnow⟩ }

/-- Taking a byte leaves the slots. -/
theorem takeByte_asked (c : Params) (b : Byte) (rest : List Byte) {i : Nat} (h : s.asked i) :
    (takeByte c b rest s).asked i := by
  unfold takeByte
  split <;> exact h

/-- The finish delivers what `RESP` holds, which fits a result slot (R235). -/
theorem finishStep_inv (h : Inv c s) : Inv c (finishStep s) := by
  obtain ⟨-, -, -, hresp⟩ := h.ma.buffers
  rw [finishStep_eq]
  refine h.of_onlyMa rfl (release_maInv h.ma (withinCap_mono hresp ?_)) fun i => release_asked rfl
  simp

/-- Every case of MA's step keeps the invariant. -/
theorem PhaseStep.inv (h : Inv c s) (ht : PhaseStep c s t) : Inv c t := by
  cases ht with
  | wait => exact h
  | drain hp =>
    refine h.of_onlyMa rfl ((h.ma.of_phase (p := .write) (n := 0) ?_ ?_ (Nat.zero_le _) ?_).congr rfl) fun i hi => hi
    all_goals simp [hp]
  | push b hp hi =>
    refine h.of_onlyMa rfl ((h.ma.of_phase (p := s.ma.phase) (n := s.ma.txidx + 1) ?_ ?_ hi ?_).congr rfl) fun i hi => hi
    all_goals simp [hp]
  | endWrite hp hi =>
    refine h.of_onlyMa rfl ((h.ma.of_phase (p := .flush) ?_ ?_ h.index_le fun _ => hi).congr rfl) fun i hi => hi
    all_goals simp [hp]
  | flush hp hq =>
    have hm : MaInv c (s.withMa { s.ma with phase := .recv, txidx := s.ma.txidx }) :=
      h.ma.of_phase (by simp [hp]) (by simp) h.index_le fun _ => h.index_eq (.inl hp)
    obtain ⟨htxflen, htxf, -, hresp⟩ := hm.buffers
    obtain ⟨htmo, -, htlast⟩ := hm.samples
    rw [flushStep_of_idle hq]
    exact h.of_onlyMa rfl
      { hm with buffers := ⟨htxflen, htxf, Nat.zero_le _, hresp⟩, samples := ⟨htmo, h.ticks.1, htlast⟩ } fun i hi => hi
  | take b rest =>
    exact h.of_onlyMa (takeByte_only c b rest s) (takeByte_maInv h.ma h.ticks.1 b rest) fun i => takeByte_asked c b rest
  | finish => exact finishStep_inv h

/-- The grant keeps the invariant: the index is 0 while the lock is free, so within whatever frame is granted (R227, log 40). -/
theorem grantStep_inv (h : Inv c s) (i : Nat) : Inv c (grantStep i s) := by
  by_cases hg : s.ma.lock = true ∨ (s.reqOf i).pending = false
  · rwa [grantStep_of_not hg]
  simp only [not_or, Bool.not_eq_true, Bool.not_eq_false] at hg
  obtain ⟨hl, hp⟩ := hg
  obtain ⟨hframe, htmo, -⟩ := h.slots_fit i
  have hbuf := grantStep_bufWf (i := i) hframe h.ma.buffers
  have hzero : s.ma.txidx = 0 := h.index_idle (h.lock_iff.1 hl)
  rw [grantStep_of_free hl hp] at hbuf ⊢
  exact h.of_onlyMa rfl
    { h.ma with
      buffers := hbuf
      lock_iff := iff_of_false (by simp) (by simp)
      owner_pending := fun _ => hp
      index_le := hzero ▸ Nat.zero_le _
      index_idle := by simp
      index_eq := by simp
      samples := ⟨htmo, h.ma.samples.2⟩ }
    fun i hi => hi

/-- The abort keeps the invariant: its result is empty (R236). -/
theorem abortStep_inv (h : Inv c s) : Inv c (abortStep s) := by
  by_cases ha : s.ma.phase = .idle ∨ s.line.ioFault = false
  · rwa [abortStep_of_not ha]
  simp only [not_or, Bool.not_eq_false] at ha
  rw [abortStep_of_fault ha.1 ha.2]
  exact h.of_onlyMa rfl ((release_maInv (h.ma.congr rfl) (withinCap_zero _)).congr rfl)
    fun i hi => release_asked (s := s.withLine _) rfl hi

/-- A post that nothing refuses keeps the invariant (R223). -/
theorem postState_inv (h : Inv c s) {i : Nat} {f : List Byte} (tmo : Nat) (hport : portExists c i = true)
    (hfit : fits c.txfMax f = true) : Inv c (postState c i f tmo s) := by
  refine h.of_onlyMa rfl
    { h.ma with
      buffers := h.ma.buffers
      owner_pending := fun hl => ?_
      pending_port := fun j => ?_
      slots_fit := fun j => ?_
      tables := ⟨Table.wf_put h.ma.tables.1 _ _, Table.wf_put h.ma.tables.2 _ _⟩ } fun j hj => ?_
  · rw [postState_reqOf]
    split
    · rfl
    · exact h.owner_pending hl
  · rw [postState_reqOf, postState_resOf]
    split
    · next hj => subst hj; exact fun _ => ⟨hport, rfl⟩
    · exact h.pending_port j
  · rw [postState_reqOf, postState_resOf]
    obtain ⟨hframe, htmo, hbytes⟩ := h.slots_fit j
    split
    · next hj => subst hj; exact ⟨withinCap_of_fits hfit, Nat.mod_lt _ (Nat.two_pow_pos _), hbytes⟩
    · exact ⟨hframe, htmo, hbytes⟩
  · unfold State.asked
    rw [postState_reqOf, postState_resOf]
    split
    · exact .inl rfl
    · exact hj

end

/-! ### Changes of a context's place in its sequence -/

/-- Which task has the processor once a requester context has come to a point. -/
theorem schedule_requester (i j : Nat) (w : Bool) (r : Option HostTask) :
    schedule (.requester i) w r = some (.requester j)
      ↔ if w then r = some (.requester j) ∧ j ≠ i else j = i := by
  cases w
  · simp [schedule, eq_comm]
  · by_cases hr : r = some (.requester i)
    · simp [schedule, hr, eq_comm]
    · simp only [schedule, hr, if_true, if_false]
      refine ⟨fun h => ⟨h, ?_⟩, And.left⟩
      rintro rfl
      exact hr h

/-- A requester context that comes to a point takes the processor from WeightReplyService unless it waits there. -/
theorem schedule_requester_weightReply (i : Nat) (w : Bool) (r : Option HostTask) :
    schedule (.requester i) w r = some .weightReply ↔ w = true ∧ r = some .weightReply := by
  cases w
  · simp [schedule]
  · by_cases hr : r = some (.requester i) <;> simp [schedule, hr]

/-- WeightReplyService gives the processor to no requester. -/
theorem requester_of_schedule_weightReply {i : Nat} {w : Bool} {r : Option HostTask}
    (h : schedule .weightReply w r = some (.requester i)) : r = some (.requester i) := by
  cases w
  · simp [schedule] at h
  · by_cases hr : r = some .weightReply
    · simp [schedule, hr] at h
    · simpa [schedule, hr] using h

/-- WeightReplyService has the processor just when it does not wait. -/
theorem schedule_weightReply (w : Bool) (r : Option HostTask) :
    schedule .weightReply w r = some .weightReply ↔ w = false := by
  cases w
  · simp [schedule]
  · by_cases hr : r = some .weightReply <;> simp [schedule, hr]

section

variable {c : Params} {s t : State} (h : Inv c s)
include h

/-- Context `i` comes to `pc`: the task that then has the processor is between two wait points (R273). -/
theorem Inv.running_after {i : Nat} {pc : HostPc}
    (hturn : pc.waits = false → i ≠ c.trigReq → s.host.running ≠ some .weightReply) :
    (∀ j, processorAfter c i pc s.host.running = some (.requester j) →
      j ≠ c.trigReq ∧ (if j = i then pc else s.taskOf j).waits = false)
    ∧ (processorAfter c i pc s.host.running = some .weightReply ↔ s.host.service.waits = false) := by
  obtain ⟨htask, hservice⟩ := h.running_task
  by_cases hi : i = c.trigReq
  · simp only [processorAfter, if_pos hi]
    refine ⟨fun j hr => ?_, hservice⟩
    rw [if_neg (hi ▸ (htask j hr).1)]
    exact htask j hr
  · simp only [processorAfter, if_neg hi, schedule_requester, schedule_requester_weightReply]
    cases hw : pc.waits with
    | false =>
      refine ⟨?_, by simp [← hservice, hturn hw hi]⟩
      rintro j rfl
      exact ⟨hi, by rw [if_pos rfl, hw]⟩
    | true =>
      refine ⟨fun j ⟨hr, hj⟩ => ?_, by simp [← hservice]⟩
      rw [if_neg hj]
      exact htask j hr

/-- Context `i` comes to `pc`, and the trigger interrupt is enabled or disabled with it. -/
theorem Inv.setTask_irq {i : Nat} {pc : HostPc} {irq : Bool} (edge : Bool)
    (hport : pc ≠ .idle → portExists c i = true ∧ pc.frame.length ≤ 7)
    (hxfer : pc.inXfer = true → s.asked i)
    (hturn : pc.waits = false → i ≠ c.trigReq → s.host.running ≠ some .weightReply)
    (hhandler : i = c.trigReq → (irq = false ↔ pc.inTrigger = true))
    (hother : i ≠ c.trigReq → irq = s.host.trigIrqEnable ∧ pc.inTrigger = false) :
    Inv c ((s.withHost { s.host with trigIrqEnable := irq, edgePending := edge }).setTask c i pc) := by
  have htask := fun j =>
    State.setTask_taskOf (s.withHost { s.host with trigIrqEnable := irq, edgePending := edge }) c i j pc
  obtain ⟨hreq, hres, htasks, hresults⟩ := h.tables
  obtain ⟨hrunning, hservice⟩ := h.running_after hturn
  refine { h with
    buffers := h.buffers, trigger_iff := ?_, trigger_only := fun j => ?_, in_xfer := fun j => ?_, task_port := fun j => ?_
    running_task := ⟨fun j hj => by rw [htask]; exact hrunning j hj, hservice⟩
    tables := ⟨hreq, hres, Table.wf_put htasks i pc, hresults⟩ }
  · rw [htask]
    by_cases hi : i = c.trigReq
    · rw [if_pos hi.symm]; exact hhandler hi
    · rw [if_neg (Ne.symm hi)]
      exact (hother hi).1 ▸ h.trigger_iff
  · rw [htask]
    split
    · next hj =>
      subst hj
      intro ht
      by_contra hi
      rw [(hother hi).2] at ht
      cases ht
    · exact h.trigger_only j
  · rw [htask]
    split
    · next hj => subst hj; exact hxfer
    · exact h.in_xfer j
  · rw [htask]
    split
    · next hj => subst hj; exact hport
    · exact h.task_port j

/-- Context `i` comes to a point of the same kind of sequence, in TRIGGER or not. -/
theorem Inv.setTask {i : Nat} {pc : HostPc} (hport : pc ≠ .idle → portExists c i = true ∧ pc.frame.length ≤ 7)
    (hxfer : pc.inXfer = true → s.asked i)
    (hturn : pc.waits = false → i ≠ c.trigReq → s.host.running ≠ some .weightReply)
    (htrig : pc.inTrigger = (s.taskOf i).inTrigger) : Inv c (s.setTask c i pc) := by
  refine h.setTask_irq (irq := s.host.trigIrqEnable) s.host.edgePending hport hxfer hturn (fun hi => ?_) fun hi => ⟨rfl, ?_⟩
  · subst hi
    rw [htrig, h.trigger_iff]
  · rw [htrig]
    exact Bool.eq_false_iff.2 fun ht => hi (h.trigger_only i ht)

theorem setResult_inv (i : Nat) (r : HostResult) : Inv c (s.setResult i r) := by
  obtain ⟨hreq, hres, htasks, hresults⟩ := h.tables
  exact { h with buffers := h.buffers, tables := ⟨hreq, hres, htasks, Table.wf_put hresults i r⟩ }

/-! ### WeightReplyService (R270, R273) -/

theorem setService_inv (pc : ServicePc) : Inv c (s.setService pc) :=
  { h with
    buffers := h.buffers
    running_task := ⟨fun i hr => h.running_task.1 i (requester_of_schedule_weightReply hr), schedule_weightReply _ _⟩ }

theorem startService_inv : Inv c (startService s) := by
  unfold startService
  split
  · next hoff =>
    have hiff := h.running_task.2
    rw [hoff] at hiff
    exact { h with buffers := h.buffers, running_task := ⟨h.running_task.1, hiff⟩ }
  · exact h

theorem readBurst_inv : Inv c (readBurst s) := by
  unfold readBurst
  split
  · exact h
  · refine setService_inv ?_ _; exact h.of_outside rfl

theorem serviceStep_inv (ht : serviceStep c s = .next t) : Inv c t := by
  unfold serviceStep at ht
  split at ht
  · cases e : s.host.service <;> simp only [serviceBody, e] at ht
    case off => cases ht; exact h
    case atRead => cases ht; exact readBurst_inv h
    case burst b => cases ht; exact setService_inv (hexlifyOp_inv h b) _
    case text x => obtain ⟨hfit, rfl⟩ := next_of_guard ht; exact setService_inv (hdecOp_inv h hfit) _
    case weigh | reply => cases ht; refine setService_inv ?_ _; exact h.of_outside rfl
    case weighed w => cases ht; exact setService_inv (hencOp_inv h w) _
  · cases ht; exact h

end

/-! ### The sequences (R260 to R267) -/

/-- Requester context `i` takes a step of a sequence: it has a port, and the processor is not WeightReplyService's. `trig` says
that the sequence belongs to TRIGGER. -/
structure InSequence (c : Params) (i : Nat) (trig : Bool) (s : State) : Prop where
  inv : Inv c s
  port : portExists c i = true
  turn : i ≠ c.trigReq → s.host.running ≠ some .weightReply
  inTrigger : (s.taskOf i).inTrigger = trig

/-- A context that may run does not find the processor with WeightReplyService. -/
theorem running_ne_weightReply {c : Params} {i : Nat} {s : State} (hm : s.mayRun c i = true) (hi : i ≠ c.trigReq) :
    s.host.running ≠ some .weightReply := by
  intro hr
  have hproc : s.processor = some .weightReply := by simp [State.processor, hr]
  simpa [hproc] using (State.mayRun_task hi).1 hm

section

variable {c : Params} {i : Nat} {trig : Bool} {s t : State} (h : InSequence c i trig s)
include h

/-- A change that keeps the invariant and leaves the contexts keeps the context in its sequence. -/
theorem InSequence.of_host (hinv : Inv c t) (ht : t.host.task = s.host.task) (hr : t.host.running = s.host.running) :
    InSequence c i trig t where
  inv := hinv
  port := h.port
  turn := hr ▸ h.turn
  inTrigger := by rw [State.taskOf, ht]; exact h.inTrigger

/-- The context comes to the next point of its sequence. -/
theorem InSequence.setTask {pc : HostPc} (htrig : pc.inTrigger = trig) (hframe : pc.frame.length ≤ 7)
    (hxfer : pc.inXfer = true → s.asked i) : Inv c (s.setTask c i pc) :=
  h.inv.setTask (fun _ => ⟨h.port, hframe⟩) hxfer (fun _ => h.turn) (htrig.trans h.inTrigger.symm)

theorem InSequence.setResult (r : HostResult) : InSequence c i trig (s.setResult i r) :=
  h.of_host (setResult_inv h.inv i r) rfl rfl

theorem InSequence.fencOp (sel : Nat) (p : List Byte) : InSequence c i trig (fencOp c sel p s) :=
  h.of_host (fencOp_inv h.inv sel p) (by rw [fencOp_host]) (by rw [fencOp_host])

theorem InSequence.fdecOp {r : List Byte} (hfit : fits c.respMax r = true) : InSequence c i trig (fdecOp c r s) :=
  h.of_host (fdecOp_inv h.inv hfit) (by rw [fdecOp_only]) (by rw [fdecOp_only])

/-- A sequence ends, inside TRIGGER with the handler's exit. -/
theorem finishSeq_inv (r : HostResult) : Inv c (finishSeq c trig i r s) := by
  apply (h.setResult r).setTask <;> cases trig <;> simp [HostPc.inTrigger, HostPc.frame, HostPc.inXfer]

/-- FENC in a sequence leads to a point of the same sequence with a Frame, which has at most seven bytes (R92), or ends it. -/
theorem buildStep_inv (sel : Nat) (p : List Byte) {pc : List Byte → HostPc}
    (hpc : ∀ f, (pc f).inTrigger = trig ∧ (pc f).frame = f ∧ (pc f).inXfer = false) :
    Inv c (buildStep c trig i sel p pc s) := by
  cases hf : fencFn c sel p with
  | error e => rw [buildStep_error _ _ _ _ hf]; exact finishSeq_inv (h.fencOp sel p) _
  | ok f =>
    obtain ⟨htrig, hframe, hxfer⟩ := hpc f
    obtain ⟨hlen, hp⟩ := fencFn_length hf
    rw [buildStep_ok _ _ _ _ hf]
    exact (h.fencOp sel p).setTask htrig (by rw [hframe]; omega) (by simp [hxfer])

/-- XFER in a sequence leads to a point at which the request is pending. -/
theorem postStep_inv {f : List Byte} {tmo : Nat} {pc : HostPc} (ht : postStep c i f tmo pc s = .next t)
    (htrig : pc.inTrigger = trig) (hframe : pc.frame = []) : Inv c t := by
  obtain ⟨hport, hfit, -, rfl⟩ := postStep_next ht
  have hpost : InSequence c i trig (postState c i f tmo s) := h.of_host (postState_inv h.inv tmo hport hfit) rfl rfl
  refine hpost.setTask htrig (by simp [hframe]) fun _ => .inl ?_
  rw [postState_reqOf, if_pos rfl]

/-- The end of XFER keeps the invariant, if what follows it does. -/
theorem replyStep_inv {k : Except Err Reply → State → State} (hk : ∀ y u, InSequence c i trig u → Inv c (k y u))
    (ht : replyStep c i k s = .next t) : Inv c t := by
  unfold replyStep at ht
  split at ht
  · cases ht; exact h.inv
  · split at ht
    · cases ht; exact hk _ _ h
    · split at ht
      · next hfit => cases ht; exact hk _ _ (h.fdecOp hfit)
      · cases ht

/-- GETSTATE's end, inside TRIGGER with RANDOMPLAY to follow or not (R262, R267). -/
theorem stateEnd_inv (tmo : Nat) (y : Except Err Reply) : Inv c (stateEnd c trig i tmo y s) := by
  unfold stateEnd
  split
  · exact finishSeq_inv h _
  · split
    · next hplay =>
      obtain ⟨rfl, -⟩ := Bool.and_eq_true_iff.1 hplay
      exact (h.setResult _).setTask rfl (Nat.zero_le _) nofun
    · exact finishSeq_inv h _

/-- The end of RANDOMPLAY's first half (R263 to R266). -/
theorem quantityEnd_inv (tmo n : Nat) (y : Except Err Reply) : Inv c (quantityEnd c trig i tmo n y s) := by
  unfold quantityEnd
  split
  · exact finishSeq_inv h _
  · exact (h.of_host (t := s.useFree) (h.inv.of_outside rfl) rfl rfl).setTask rfl (Nat.zero_le _) nofun

end

section

variable {c : Params} {i : Nat} {s t : State}

/-- The first step of CMD, GETSTATE and RANDOMPLAY. -/
theorem beginCall_inv (h : InSequence c i false s) (call : HostCall) : Inv c (beginCall c i call s) := by
  cases call with
  | cmd op p tmo => exact buildStep_inv (h.setResult .none) _ p (pc := fun f => .cmdPost f tmo) fun f => ⟨rfl, rfl, rfl⟩
  | getstate tmo => exact buildStep_inv (h.setResult .none) 9 [] (pc := fun f => .gsPost false f tmo) fun f => ⟨rfl, rfl, rfl⟩
  | randomplay tmo n =>
    exact buildStep_inv (h.setResult .none) 10 [] (pc := fun f => .rqPost false f tmo n) fun f => ⟨rfl, rfl, rfl⟩

/-- The exit of the trigger handler enables the interrupt and leaves TRIGGER (R267). -/
theorem trigExit_inv (h : Inv c s) (htask : s.taskOf i = .trigExit) :
    Inv c ((s.withHost { s.host with trigIrqEnable := true }).setTask c i .idle) := by
  have hi : i = c.trigReq := h.trigger_only i (by rw [htask]; rfl)
  exact h.setTask_irq (irq := true) s.host.edgePending (fun hne => absurd rfl hne) nofun nofun
    (fun _ => by simp [HostPc.inTrigger]) fun hne => absurd hi hne

/-- A context's step keeps the invariant: each leads to a point of the same sequence, ends it, or leaves TRIGGER. -/
theorem contextStep_inv (h : Inv c s) (hm : s.mayRun c i = true) (ht : contextStep c i s = .next t) : Inv c t := by
  have hseq : ∀ {pc : HostPc}, s.taskOf i = pc → pc ≠ .idle → InSequence c i pc.inTrigger s := by
    rintro _ rfl hne
    exact ⟨h, (h.task_port i hne).1, running_ne_weightReply hm, rfl⟩
  cases e : s.taskOf i <;> simp only [contextStep, e] at ht
  case idle => cases ht; exact h
  case ready call => cases ht; exact beginCall_inv (hseq e nofun) call
  case cmdPost | gsPost | rqPost | rsPost => exact postStep_inv (hseq e nofun) ht rfl rfl
  case cmdWait | rsWait => exact replyStep_inv (hseq e nofun) (fun y u hu => finishSeq_inv hu _) ht
  case gsWait => exact replyStep_inv (hseq e nofun) (fun y u hu => stateEnd_inv hu _ y) ht
  case rqWait => exact replyStep_inv (hseq e nofun) (fun y u hu => quantityEnd_inv hu _ _ y) ht
  case rqStart | rsStart => cases ht; exact buildStep_inv (hseq e nofun) _ _ fun f => ⟨rfl, rfl, rfl⟩
  case trigExit => cases ht; exact trigExit_inv h e

theorem hostStep_inv (h : Inv c s) (ht : hostStep c i s = .next t) : Inv c t := by
  unfold hostStep at ht
  split at ht
  · next hm => exact contextStep_inv h (Bool.and_eq_true_iff.1 hm).1 ht
  · cases ht; exact h

/-- A context that is asked for a sequence begins it, or is made ready for it (R273). -/
theorem startCall_inv (h : Inv c s) {call : HostCall} (ht : startCall c i call s = .next t) : Inv c t := by
  obtain ⟨hport, hidle, -, ⟨hm, rfl⟩ | ⟨-, rfl⟩⟩ := startCall_next ht
  · exact beginCall_inv ⟨h, hport, running_ne_weightReply hm, by rw [hidle]; rfl⟩ call
  · refine (setResult_inv h i .none).setTask (fun _ => ⟨hport, Nat.zero_le _⟩) nofun nofun ?_
    rw [State.setResult_taskOf, hidle]
    rfl

/-- An edge arrives (R268). -/
theorem edgeArrives_inv (h : Inv c s) : Inv c (edgeArrives s) := by
  unfold edgeArrives
  split <;> exact h.of_outside rfl

/-- FENC does not look at the host, so the order of the two does not matter. -/
theorem fencOp_withHost (c : Params) (sel : Nat) (p : List Byte) (s : State) (x : HostState) :
    fencOp c sel p (s.withHost x) = (fencOp c sel p s).withHost x := by
  cases hf : fencFn c sel p with
  | error e => simp only [fencOp_error hf]; rfl
  | ok f => simp only [fencOp_ok hf]; rfl

/-- The interrupt is taken: it disables itself, and its context, which is in no sequence, comes to TRIGGER (R267). -/
theorem takeTrigger_inv (hc : c.valid = true) (h : Inv c s) : Inv c (takeTrigger c s) := by
  obtain ⟨-, -, -, -, -, -, -, -, -, hport, -⟩ := valid_facts hc
  unfold takeTrigger
  split
  · have hf : fencFn c 9 [] = .ok [0x7E, 0x03, c.codeQstate, 0x03 ^^^ c.codeQstate, 0xEF] := fencFn_query rfl
    rw [buildStep_ok _ _ _ _ hf, State.setResult, fencOp_withHost, fencOp_withHost]
    exact (setResult_inv (fencOp_inv h 9 []) c.trigReq .none).setTask_irq (irq := false) false
      (fun _ => ⟨portExists_of_lt hport, by simp [HostPc.frame]⟩) nofun
      (fun _ hne => absurd rfl hne) (fun _ => by simp [HostPc.inTrigger]) fun hne => absurd rfl hne
  · exact h

end

/-! ### Every operation and every move -/

/-- Every operation keeps the invariant. -/
theorem exec_inv {i : Instr} {s t : State} (h : Inv Config.params s) (ht : exec i s = .next t) :
    Inv Config.params t := by
  have hfenc : ∀ {sel p}, (.next (fencOp Config.params sel p s) : Result) = .next t → Inv Config.params t := by
    intro sel p ht; cases ht; exact fencOp_inv h sel p
  cases i
  case xorsum | addsum | xverify | averify => cases ht; exact h.of_outside rfl
  case verify g bs k => cases ht; cases g <;> exact h.of_outside rfl
  case hexlify bs => cases ht; exact hexlifyOp_inv h bs
  case henc w => cases ht; exact hencOp_inv h w
  case unhex x => obtain ⟨hfit, rfl⟩ := next_of_guard ht; exact unhexOp_inv h hfit
  case hdec x => obtain ⟨hfit, rfl⟩ := next_of_guard ht; exact hdecOp_inv h hfit
  case fparse bs => obtain ⟨hfit, rfl⟩ := next_of_guard ht; exact fparseOp_inv h hfit
  case fdec r => obtain ⟨hfit, rfl⟩ := next_of_guard ht; exact fdecOp_inv h hfit
  case xfer j f tmo => obtain ⟨hport, hfit, -, rfl⟩ := post_next ht; exact postState_inv h tmo hport hfit
  case getstate | randomplay | cmd => exact startCall_inv h ht
  case trigger => cases ht; exact takeTrigger_inv params_valid (edgeArrives_inv h)
  case wserve => exact serviceStep_inv (startService_inv h) ht
  case wdfeed => cases ht; split <;> exact h.of_outside rfl
  all_goals exact hfenc ht

/-- A reset of the device meets the invariant, whatever it finds (R321). -/
theorem deviceReset_inv (s : State) : Inv Config.params (deviceReset Config.params s) := by
  have h := reset_inv [] []
  obtain ⟨-, hticks⟩ := h.ticks
  exact { h with buffers := h.buffers, ticks := ⟨Nat.mod_lt _ (Nat.two_pow_pos _), hticks⟩ }

/-- A tick keeps `NOW` within `TICK_W` bits, or resets the device (R41, R320). -/
theorem tickStep_inv {s : State} (h : Inv Config.params s) : Inv Config.params (tickStep Config.params s) := by
  cases hx : wdExpired Config.params (wdTick Config.params s.wd) with
  | true =>
    have hreset : tickStep Config.params s = deviceReset Config.params _ := if_pos hx
    rw [hreset]
    exact deviceReset_inv _
  | false =>
    rw [tickStep_of_not_expired hx]
    exact { h with buffers := h.buffers, ticks := ⟨Nat.mod_lt _ (Nat.two_pow_pos _), h.ticks.2⟩ }

/-- Every move of every agent keeps the invariant. -/
theorem runEvent_inv {e : Ev} {s t : State} (h : Inv Config.params s) (ht : runEvent e s = .next t) :
    Inv Config.params t := by
  cases e
  case op who =>
    obtain rfl | ⟨i, rest, -, -, -, -, ht⟩ := issueOp_next ht
    · exact h
    · exact exec_inv (h.of_outside (t := s.withCmds rest) rfl) ht
  case hostStep i => exact hostStep_inv h ht
  case grant i => cases ht; exact grantStep_inv h i
  case ma => exact (maStep_phaseStep ht).inv h
  case abort => cases ht; exact abortStep_inv h
  case tick => cases ht; exact tickStep_inv h
  case serialise => cases ht; show Inv _ (serialiseStep s); unfold serialiseStep; split <;> exact h.of_outside rfl
  case portRead who r =>
    have ht : portReadStep Config.params who r s = .next t := ht
    unfold portReadStep at ht
    split at ht
    · cases ht; exact h
    · split at ht
      · cases ht
      · split at ht <;> cases ht
        exact h.of_outside rfl
  case bridgeBurst bs => cases ht; show Inv _ (bridgeStep bs s); unfold bridgeStep; split <;> exact h.of_outside rfl
  case serve => exact serviceStep_inv h ht
  case edge => cases ht; exact edgeArrives_inv h
  case takeIrq => cases ht; exact takeTrigger_inv params_valid h
  case reset => cases ht; exact deviceReset_inv s
  case peer | txReady | ioFault | xgMicro | sgMicro | armWatchdog | irqFreeze => cases ht; exact h.of_outside rfl

/-- Settles O40: finding the next event is nothing to the invariant, and its move keeps it. -/
theorem stepKeepsInvariant : Obligations.StepKeepsInvariant := by
  intro s t h ht
  have hnext : Inv Config.params (nextEvent s).2 := by
    unfold nextEvent
    split <;> exact h.of_outside rfl
  exact runEvent_inv hnext ht

end Sys2Proof.Machine
end

section
/-! The watchdog and its feed timer (spec/44_host_sequences.md R275, R276, spec/70_reset_and_hazards.md R320; log 23, log 24): what a
tick does to them, that no move but a few named ones touches them, and so that without an interrupt freeze the feed comes in time. -/

namespace Sys2Proof.Machine

/-! ### One tick (R275, R276) -/

section

variable {c : Params}

/-- While interrupts are frozen no feed is made, and an armed watchdog counts (R276). -/
theorem wdTick_of_frozen {w : WatchdogState} (ha : w.armed = true) (hf : w.irqFrozen = true) :
    wdTick c w = { w with count := w.count + 1, feedCount := w.feedCount + 1 } := by
  simp [wdTick, feedFires, ha, hf]

/-- With no freeze an armed watchdog is fed when the feed timer's period is over, and counts otherwise (R275). -/
theorem wdTick_of_not_frozen {w : WatchdogState} (ha : w.armed = true) (hf : w.irqFrozen = false) :
    wdTick c w = if c.wdFeed ≤ w.feedCount + 1 then { w with count := 0, feedCount := 0 }
      else { w with count := w.count + 1, feedCount := w.feedCount + 1 } := by
  simp [wdTick, feedFires, ha, hf]

/-- A tick neither arms the watchdog nor freezes interrupts. -/
theorem wdTick_flags (c : Params) (w : WatchdogState) :
    (wdTick c w).armed = w.armed ∧ (wdTick c w).irqFrozen = w.irqFrozen := by
  unfold wdTick
  split
  · exact ⟨rfl, rfl⟩
  · split <;> exact ⟨rfl, rfl⟩

/-- A watchdog that has expired has been armed. -/
theorem wdExpired_iff {w : WatchdogState} : wdExpired c w = true ↔ w.armed = true ∧ c.wdWindow ≤ w.count := by
  simp [wdExpired]

/-- A tick on which the watchdog expires resets the device (R320). -/
theorem tickStep_of_expired {s : State} (h : wdExpired c (wdTick c s.wd) = true) :
    ∃ u, tickStep c s = deviceReset c u :=
  ⟨_, if_pos h⟩

/-- A feed timer that keeps up does so after a tick. -/
theorem FeedKeepsUp.tick {w : WatchdogState} (h : FeedKeepsUp c w) : FeedKeepsUp c (wdTick c w) := by
  obtain ⟨harmed, hfrozen⟩ := wdTick_flags c w
  intro ha hf
  rw [harmed] at ha
  rw [hfrozen] at hf
  obtain ⟨hcount, -⟩ := h ha hf
  rw [wdTick_of_not_frozen ha hf]
  split
  · exact ⟨Nat.zero_le _, Nat.zero_le _⟩
  · next hlt => exact ⟨Nat.succ_le_succ hcount, (Nat.not_le.1 hlt).le⟩

/-- While it keeps up the watchdog does not expire, for the feed's period is shorter than the window (R8, R275). -/
theorem FeedKeepsUp.not_expired (hc : c.valid = true) {w : WatchdogState} (h : FeedKeepsUp c w)
    (hf : w.irqFrozen = false) : wdExpired c (wdTick c w) = false := by
  obtain ⟨-, -, -, -, -, -, -, -, hwindow, -⟩ := valid_facts hc
  obtain ⟨harmed, hfrozen⟩ := wdTick_flags c w
  rw [Bool.eq_false_iff]
  intro hx
  obtain ⟨ha, hle⟩ := wdExpired_iff.1 hx
  obtain ⟨hcount, hfeed⟩ := h.tick ha (hfrozen.trans hf)
  omega

end

/-- Settles O46: WDFEED by whether interrupts are frozen; the tick by whether the count it reaches is the window. -/
theorem watchdogFeedAndExpiry : Obligations.WatchdogFeedAndExpiry := by
  intro s
  refine ⟨fun hf => ?_, fun hf => ?_, fun ha hf => ⟨_, rfl, fun hle => ?_, fun hlt => ?_⟩⟩
  · exact congrArg Host.Outcome.next (if_neg (by simp [hf]))
  · exact congrArg Host.Outcome.next (if_pos hf)
  · have hx : wdExpired Config.params (wdTick Config.params s.wd) = true :=
      wdExpired_iff.2 (by rw [wdTick_of_frozen ha hf]; exact ⟨ha, hle⟩)
    obtain ⟨u, hu⟩ := tickStep_of_expired hx
    rw [hu]
    exact ⟨rfl, rfl⟩
  · have hx : wdExpired Config.params (wdTick Config.params s.wd) = false :=
      Bool.eq_false_iff.2 fun hx => by
        have hle := (wdExpired_iff.1 hx).2
        rw [wdTick_of_frozen ha hf] at hle
        exact Nat.not_le.2 hlt hle
    rw [tickStep_of_not_expired hx, wdTick_of_frozen ha hf]
    exact ⟨rfl, rfl, rfl⟩

/-! ### What leaves the watchdog alone -/

section

variable (c : Params) (trig : Bool) (i : Nat) (s : State)

/-- FENC inside a sequence. -/
theorem buildStep_wd (sel : Nat) (p : List Byte) (pc : List Byte → HostPc) :
    (buildStep c trig i sel p pc s).wd = s.wd := by
  have h : (fencOp c sel p s).wd = s.wd := by rw [fencOp_only]
  unfold buildStep
  split <;> exact h

/-- The first step of a sequence. -/
theorem beginCall_wd (call : HostCall) : (beginCall c i call s).wd = s.wd := by
  cases call <;> exact buildStep_wd ..

/-- GETSTATE's end. -/
theorem stateEnd_wd (tmo : Nat) (y : Except Err Reply) : (stateEnd c trig i tmo y s).wd = s.wd := by
  unfold stateEnd
  split
  · rfl
  · split <;> rfl

/-- The end of RANDOMPLAY's first half. -/
theorem quantityEnd_wd (tmo n : Nat) (y : Except Err Reply) : (quantityEnd c trig i tmo n y s).wd = s.wd := by
  unfold quantityEnd
  split <;> rfl

/-- An edge, and the interrupt that is taken. -/
theorem edgeArrives_wd : (edgeArrives s).wd = s.wd := by
  unfold edgeArrives
  split <;> rfl

theorem takeTrigger_wd : (takeTrigger c s).wd = s.wd := by
  unfold takeTrigger
  split
  · exact buildStep_wd ..
  · rfl

/-- A grant and an abort. -/
theorem grantStep_wd : (grantStep i s).wd = s.wd := by
  unfold grantStep
  split <;> rfl

theorem abortStep_wd : (abortStep s).wd = s.wd := by
  unfold abortStep
  split <;> rfl

/-- Starting WeightReplyService. -/
theorem startService_wd : (startService s).wd = s.wd := by
  unfold startService
  split <;> rfl

end

section

variable {c : Params} {s t : State}

/-- The end of XFER in a sequence, if what follows it does. -/
theorem replyStep_wd {i : Nat} {k : Except Err Reply → State → State} (hk : ∀ y u, (k y u).wd = u.wd)
    (h : replyStep c i k s = .next t) : t.wd = s.wd := by
  unfold replyStep at h
  split at h
  · cases h; rfl
  · split at h
    · cases h; exact hk _ _
    · obtain ⟨-, rfl⟩ := next_of_guard h
      rw [hk, fdecOp_only]

/-- A context's step. -/
theorem contextStep_wd {i : Nat} (h : contextStep c i s = .next t) : t.wd = s.wd := by
  have hpost : ∀ {f tmo pc}, postStep c i f tmo pc s = .next t → t.wd = s.wd := fun h => by
    obtain ⟨-, -, -, rfl⟩ := postStep_next h
    rfl
  cases e : s.taskOf i <;> simp only [contextStep, e] at h
  case cmdPost | gsPost | rqPost | rsPost => exact hpost h
  case cmdWait | rsWait => refine replyStep_wd ?_ h; exact fun _ _ => rfl
  case gsWait => exact replyStep_wd (fun _ _ => stateEnd_wd ..) h
  case rqWait => exact replyStep_wd (fun _ _ => quantityEnd_wd ..) h
  case ready => cases h; exact beginCall_wd ..
  case rqStart | rsStart => cases h; exact buildStep_wd ..
  case idle | trigExit => cases h; rfl

theorem hostStep_wd {i : Nat} (h : hostStep c i s = .next t) : t.wd = s.wd := by
  unfold hostStep at h
  split at h
  · exact contextStep_wd h
  · cases h; rfl

/-- A requester context that is asked for a sequence. -/
theorem startCall_wd {i : Nat} {call : HostCall} (h : startCall c i call s = .next t) : t.wd = s.wd := by
  obtain ⟨-, -, -, ⟨-, rfl⟩ | ⟨-, rfl⟩⟩ := startCall_next h
  · exact beginCall_wd ..
  · rfl

/-- A step of WeightReplyService. -/
theorem serviceStep_wd (h : serviceStep c s = .next t) : t.wd = s.wd := by
  unfold serviceStep at h
  split at h
  · cases e : s.host.service <;> simp only [serviceBody, e] at h
    case atRead => cases h; unfold readBurst; split <;> rfl
    case text x =>
      obtain ⟨-, rfl⟩ := next_of_guard h
      show (hdecOp x s).wd = s.wd
      rw [hdecOp_only]
    all_goals cases h; rfl
  · cases h; rfl

/-- MA's own step. -/
theorem PhaseStep.wd (h : PhaseStep c s t) : t.wd = s.wd := by
  cases h with
  | wait | drain | push | endWrite | finish => rfl
  | flush hp hq => rw [flushStep_of_idle hq]
  | take b rest => rw [takeByte_only]

/-- A read of a result port. -/
theorem portReadStep_wd {who : Option Nat} {r : PortReg} (h : portReadStep c who r s = .next t) : t.wd = s.wd := by
  unfold portReadStep at h
  split at h
  · cases h; rfl
  · split at h
    · cases h
    · split at h <;> cases h
      rfl

/-- The serialiser, and a burst on the bridge line. -/
theorem serialiseStep_wd (s : State) : (serialiseStep s).wd = s.wd := by
  unfold serialiseStep
  split <;> rfl

theorem bridgeStep_wd (bs : List Byte) (s : State) : (bridgeStep bs s).wd = s.wd := by
  unfold bridgeStep
  split <;> rfl

/-- An operation of a unit (R20). -/
theorem OnlyUnit.wd {u : PureUnit} (h : OnlyUnit u s t) : t.wd = s.wd := by
  cases u <;> (simp only [OnlyUnit, OnlyFe, OnlyFd, OnlyHd] at h; rw [h])

end

/-! ### The moves (R275, R276, R320, R323) -/

/-- What a move can do to the watchdog and its feed timer. -/
inductive WdMove (c : Params) (e : Ev) (s t : State) : Prop where
  | none (h : t.wd = s.wd)
  /-- WDFEED, which no freeze keeps from running -/
  | feed (hf : s.wd.irqFrozen = false) (h : t.wd = { s.wd with count := 0 })
  /-- a tick on which it does not expire -/
  | tick (h : t.wd = wdTick c s.wd)
  /-- armed, or armed again, with both counts at 0 -/
  | arm (h : t.wd = { s.wd with armed := true, count := 0, feedCount := 0 })
  | freeze (b : Bool) (he : e = .irqFreeze b)
  /-- the device is reset, and the watchdog is not armed -/
  | reset (h : t.wd.armed = false)

/-- An operation feeds the watchdog or leaves it alone. -/
theorem exec_wd {i : Instr} {e : Ev} {s t : State} (h : exec i s = .next t) : WdMove Config.params e s t := by
  cases hu : pureUnit i with
  | some u => exact .none (unitsArePrivate i u s t hu h).wd
  | none =>
    cases i
    case xfer j f tmo => obtain ⟨-, -, -, rfl⟩ := post_next h; exact .none rfl
    case getstate | randomplay | cmd => exact .none (startCall_wd h)
    case trigger => cases h; exact .none ((takeTrigger_wd ..).trans (edgeArrives_wd s))
    case wserve => exact .none ((serviceStep_wd (s := startService s) h).trans (startService_wd s))
    case wdfeed =>
      cases h
      split
      · exact .none rfl
      · next hf => exact .feed (by simpa using hf) rfl
    case verify g bs k => cases g <;> cases hu
    all_goals cases hu

/-- A tick counts, or resets the device (R320). -/
theorem tickStep_wd (e : Ev) (s : State) : WdMove Config.params e s (tickStep Config.params s) := by
  cases hx : wdExpired Config.params (wdTick Config.params s.wd) with
  | true => obtain ⟨u, hu⟩ := tickStep_of_expired hx; exact .reset (by rw [hu]; rfl)
  | false => exact .tick (by rw [tickStep_of_not_expired hx])

/-- Every move is one of the cases of `WdMove`. -/
theorem runEvent_wd {e : Ev} {s t : State} (h : runEvent e s = .next t) : WdMove Config.params e s t := by
  cases e
  case op who =>
    obtain rfl | ⟨i, rest, -, -, -, -, h⟩ := issueOp_next h
    · exact .none rfl
    · cases exec_wd (e := .op who) h with
      | none h => exact .none h
      | feed hf h => exact .feed hf h
      | tick h => exact .tick h
      | arm h => exact .arm h
      | freeze b he => cases he
      | reset h => exact .reset h
  case hostStep i => exact .none (hostStep_wd h)
  case grant i => cases h; exact .none (grantStep_wd i s)
  case ma => exact .none (maStep_phaseStep h).wd
  case abort => cases h; exact .none (abortStep_wd s)
  case tick => cases h; exact tickStep_wd _ s
  case serialise => cases h; exact .none (serialiseStep_wd s)
  case portRead who r => exact .none (portReadStep_wd h)
  case bridgeBurst bs => cases h; exact .none (bridgeStep_wd bs s)
  case serve => exact .none (serviceStep_wd h)
  case edge => cases h; exact .none (edgeArrives_wd s)
  case takeIrq => cases h; exact .none (takeTrigger_wd _ s)
  case armWatchdog => cases h; exact .arm rfl
  case irqFreeze b => exact .freeze b rfl
  case reset => cases h; exact .reset rfl
  case peer | txReady | ioFault | xgMicro | sgMicro => cases h; exact .none rfl

/-- Settles O47: of the moves, only the tick lets the counts grow, and it feeds the watchdog before they pass the period. -/
theorem feedKeepsWatchdogFromFiring : Obligations.FeedKeepsWatchdogFromFiring := by
  intro e s t h ht hne
  refine ⟨?_, fun he _ hf => by subst he; exact h.not_expired params_valid hf⟩
  cases runEvent_wd ht with
  | none hw => rwa [hw]
  | feed hf hw => rw [hw]; exact fun ha hf => ⟨Nat.zero_le _, (h ha hf).2⟩
  | tick hw => rw [hw]; exact h.tick
  | arm hw => rw [hw]; exact fun _ _ => ⟨Nat.zero_le _, Nat.zero_le _⟩
  | freeze b he => exact absurd he (hne b)
  | reset hw => intro ha; rw [hw] at ha; cases ha

end Sys2Proof.Machine
end

section
/-! The steps of RANDOMPLAY and of TRIGGER (spec/44_host_sequences.md R260 to R268, R276; log 17 to 19, 24, 44): a sequence whose
frame is built posts it; one whose result has come goes on with its own reading of that; FENC in between builds the next frame. -/

namespace Sys2Proof.Machine

/-! ### The post (R223, R273) -/

/-- No task has the processor just when the task that runs, if there is one, is a blocked context (R223, R273). -/
theorem State.processor_eq_none_iff {s : State} :
    s.processor = none ↔ ∀ k, s.host.running = some k → ∃ j, k = .requester j ∧ (s.reqOf j).pending = true := by
  unfold State.processor
  split
  · next h => simp [h]
  · next h => simp [h]
  · next j h => cases hp : (s.reqOf j).pending <;> simp [h, State.blocked, hp]

section

variable {c : Params} {i : Nat} {f : List Byte} {tmo : Nat} {pc : HostPc} {s : State}

/-- XFER in a sequence, where nothing refuses the post. -/
theorem postStep_eq (hport : portExists c i = true) (hfits : fits c.txfMax f = true) (hp : (s.reqOf i).pending = false) :
    postStep c i f tmo pc s = .next ((postState c i f tmo s).setTask c i pc) := by
  simp only [postStep, post_eq hport hfits hp]

/-- A task that posts gives up the processor, which no other task had (R273). -/
theorem processor_after_post (hw : pc.waits = true) (hi : i ≠ c.trigReq) (hm : s.mayRun c i = true) :
    ((postState c i f tmo s).setTask c i pc).processor = none := by
  have hrun : ((postState c i f tmo s).setTask c i pc).host.running
      = if s.host.running = some (.requester i) then none else s.host.running := by
    rw [State.setTask_host_running, processorAfter, if_neg hi, hw]
    rfl
  rw [State.processor_eq_none_iff]
  intro k hk
  rw [hrun] at hk
  split at hk
  · cases hk
  · next hne =>
    have hnone : s.processor = none :=
      ((State.mayRun_task hi).1 hm).resolve_right fun h => hne (State.running_of_processor h)
    obtain ⟨j, rfl, hj⟩ := State.processor_eq_none_iff.1 hnone k hk
    refine ⟨j, rfl, ?_⟩
    rw [State.setTask_reqOf, postState_reqOf]
    split
    · rfl
    · exact hj

/-- The four points at which a sequence posts its frame (R260), and where each leads. -/
theorem contextStep_of_built {trig : Bool} {n : Nat} {w : HostPc × HostPc}
    (hw : w ∈ [(HostPc.cmdPost f tmo, HostPc.cmdWait), (.gsPost trig f tmo, .gsWait trig tmo),
      (.rqPost trig f tmo n, .rqWait trig tmo n), (.rsPost trig f tmo n, .rsWait trig n)])
    (ht : s.taskOf i = w.1) :
    contextStep c i s = postStep c i f tmo w.2 s ∧ w.1 ≠ .idle ∧ w.1.frame = f ∧ w.2.waits = true := by
  simp only [List.mem_cons, List.not_mem_nil, or_false] at hw
  rcases hw with rfl | rfl | rfl | rfl <;> simp [contextStep, ht, HostPc.frame, HostPc.waits]

end

/-- Settles O49: nothing refuses the post, for the invariant gives the context a port and its frame the length of a Frame. -/
theorem sequencesPostTheirFrame : Obligations.SequencesPostTheirFrame := by
  intro i tmo n trig f s hinv w hw ht htmo hm hp
  obtain ⟨hstep, hidle, hframe, hwaits⟩ := contextStep_of_built (c := Config.params) hw ht
  obtain ⟨hport, hlen⟩ := hinv.task_port i (ht ▸ hidle)
  have hfits := fits_txfMax_of_le_seven params_valid (f := f) (by rwa [ht, hframe] at hlen)
  refine ⟨_, fun hi => processor_after_post hwaits hi hm,
    (runEvent_hostStep hm hp).trans (hstep.trans (postStep_eq hport hfits hp)), State.setTask_taskOf_same .., ?_, ?_,
    rfl, rfl, rfl, rfl⟩
  · rw [State.setTask_reqOf, postState_reqOf, if_pos rfl, ticksOperand_eq htmo]
  · rw [State.setTask_resOf, postState_resOf, if_pos rfl]

/-! ### The reading of a result (R262, R263, R265) -/

/-- What a sequence reads of its XFER's result: the transport fault, or FDEC's answer to bytes that fit `RBUF`. -/
inductive State.Reads (c : Params) (s : State) (i : Nat) : Except Err Reply → Prop where
  | fault (hf : (s.resOf i).err = .transportFault) : s.Reads c i (.error ⟨.transportFault, .none⟩)
  | reply (hf : (s.resOf i).err ≠ .transportFault) (hfit : fits c.respMax (s.resOf i).bytes = true) :
      s.Reads c i (fdecFn c (s.resOf i).bytes)

/-- Once the result is valid the sequence goes on with what it reads, and nothing but FD has changed (R20). -/
theorem replyStep_of_reads {c : Params} {i : Nat} {s : State} {y : Except Err Reply} (h : s.Reads c i y)
    (hv : (s.resOf i).valid = true) (k : Except Err Reply → State → State) :
    ∃ u, OnlyFd s u ∧ replyStep c i k s = .next (k y u) := by
  cases h with
  | fault hf => exact ⟨s, rfl, replyStep_of_transportFault k hv hf⟩
  | reply hf hfit => exact ⟨_, fdecOp_only .., replyStep_of_reply k hv hf hfit⟩

/-! ### RANDOMPLAY's two readings (R263 to R266) -/

section

variable {c : Params} {trig : Bool} {i tmo n : Nat} {y : Except Err Reply} {s : State}

theorem quantityEnd_error {e : Err} (h : quantityResult y = .error e) :
    quantityEnd c trig i tmo n y s = finishSeq c trig i (.err e) s := by
  simp only [quantityEnd, h]

theorem quantityEnd_ok {q : Nat} (h : quantityResult y = .ok q) :
    quantityEnd c trig i tmo n y s = s.useFree.setTask c i (.rsStart trig tmo (drawTrack n q s.freeCtr)) := by
  simp only [quantityEnd, h]

/-- A rest that is not four hex digits is no quantity (R264). -/
theorem quantityResult_of_bad {d : List Byte} (h : d.length ≠ 4 ∨ ∃ b ∈ d, ishex b = false) :
    quantityResult (.ok (.ack d)) = .error ⟨.protocol, .quantityFormat⟩ := by
  have hq : quantityOf d = none := by
    refine if_neg fun ⟨hl, hall⟩ => h.elim (· hl) fun ⟨b, hb, hx⟩ => ?_
    rw [List.all_eq_true.1 hall b hb] at hx
    cases hx
  simp only [quantityResult, hq]

/-- Four hex digits are one, and 0 is no range to draw from (R264, R265). -/
theorem quantityResult_of_digits {d : List Byte} (hl : d.length = 4) (hx : ∀ b ∈ d, ishex b = true) :
    quantityResult (.ok (.ack d))
      = if hexNumeral d = 0 then .error ⟨.protocol, .zeroQuantity⟩ else .ok (hexNumeral d) := by
  have hq : quantityOf d = some (hexNumeral d) := if_pos ⟨hl, List.all_eq_true.2 hx⟩
  simp only [quantityResult, hq]
  cases hexNumeral d <;> rfl

/-- The draw is in `1..q`, and is the operand when that is (R266; log 18). -/
theorem drawTrack_range {q : Nat} (hq : 1 ≤ q) (n ctr : Nat) :
    1 ≤ drawTrack n q ctr ∧ drawTrack n q ctr ≤ q ∧ (1 ≤ n → n ≤ q → drawTrack n q ctr = n) := by
  have hmod := Nat.mod_lt (Config.freeDraw ctr) hq
  unfold drawTrack
  split
  · next h => exact ⟨h.1, h.2, fun _ _ => rfl⟩
  · next h => exact ⟨by omega, by omega, fun h1 h2 => absurd ⟨h1, h2⟩ h⟩

end

/-- Settles O51: the sequence ends with an error of its reading of the result; else it comes to the draw. -/
theorem quantityReplyDecides : Obligations.QuantityReplyDecides := by
  intro trig i tmo n s ht hv hp hm y ends
  have hread : ∀ {x}, s.Reads Config.params i x → ∃ u, OnlyFd s u
      ∧ runEvent (.hostStep i) s = .next (quantityEnd Config.params trig i tmo n x u) := fun hx => by
    rw [runEvent_hostStep hm hp]
    simpa only [contextStep, ht] using replyStep_of_reads hx hv _
  have hends : ∀ {x e}, s.Reads Config.params i x → quantityResult x = .error e → ends e := fun hx he => by
    obtain ⟨u, hu, hstep⟩ := hread hx
    rw [quantityEnd_error he] at hstep
    refine ⟨_, hstep, finishSeq_taskOf_same .., finishSeq_resultOf_same .., ?_, ?_, ?_⟩ <;> rw [hu] <;> rfl
  refine ⟨fun hf => hends (.fault hf) rfl, fun hf hfit => ?_⟩
  have hreply : ∀ {x}, y = x → s.Reads Config.params i x := fun hx => hx ▸ .reply hf hfit
  refine ⟨fun e h => hends (hreply h) rfl, fun v h => hends (hreply h) rfl,
    fun d h hbad => hends (hreply h) (quantityResult_of_bad hbad), ?_⟩
  intro d0 d1 d2 d3 h hx q
  have hq : hexNumeral [d0, d1, d2, d3] = q := by simp only [hexNumeral, List.foldl_cons, List.foldl_nil, q]; omega
  have hresult := quantityResult_of_digits rfl hx
  rw [hq] at hresult
  refine ⟨fun h0 => hends (hreply h) (hresult.trans (if_pos h0)), fun h1 => ?_⟩
  obtain ⟨u, hu, hstep⟩ := hread (hreply h)
  rw [quantityEnd_ok (hresult.trans (if_neg (by omega)))] at hstep
  obtain ⟨hlow, hhigh, hoperand⟩ := drawTrack_range h1 n u.freeCtr
  refine ⟨_, _, hstep, State.setTask_taskOf_same .., hlow, hhigh, hoperand, ?_, ?_⟩ <;> rw [hu] <;> rfl

/-! ### FENC inside a sequence (R262, R263, R265) -/

/-- FENC that builds a Frame in a sequence: the context comes to the point before XFER, the Frame is in `FBUF`, and MA, the line and
the trigger interrupt are as they were. -/
theorem buildStep_builds {c : Params} {sel : Nat} {p f : List Byte} (h : fencFn c sel p = .ok f) (trig : Bool) (i : Nat)
    (pc : List Byte → HostPc) (s : State) :
    let t := buildStep c trig i sel p pc s
    t.taskOf i = pc f ∧ t.ma = s.ma ∧ t.line = s.line ∧ t.host.trigIrqEnable = s.host.trigIrqEnable
      ∧ t.fe = ⟨f ++ s.fe.fbuf.drop f.length, f.length, .noError, .frame f⟩ := by
  intro t
  have ht : t = (fencOp c sel p s).setTask c i (pc f) := buildStep_ok _ _ _ _ h
  refine ⟨by rw [ht, State.setTask_taskOf_same], ?_⟩
  rw [ht, fencOp_ok h]
  exact ⟨rfl, rfl, rfl, rfl⟩

/-- The bytes of a track number, high byte first (R96). -/
theorem trackParams_eq {n : Nat} (h : n < 65536) :
    ∃ hi lo : Byte, n = 256 * hi.toNat + lo.toNat ∧ trackParams n = [hi, lo] := by
  refine ⟨_, _, ?_, rfl⟩
  simp only [BitVec.extractLsb'_toNat, BitVec.toNat_ofNat, Nat.shiftRight_eq_div_pow]
  omega

/-- Settles O52: select-track is row 13; its reply is read as `selectResult` reads it. -/
theorem trackSelectAndSuccess : Obligations.TrackSelectAndSuccess := by
  intro trig i tmo n s hp hm
  constructor
  · intro ht hn
    obtain ⟨hi, lo, hsum, hpar⟩ := trackParams_eq hn
    have hf : fencFn Config.params 13 (trackParams n) = .ok [0x7E, 0x05, Config.params.codeSeltrk, hi, lo,
        0x05 ^^^ Config.params.codeSeltrk ^^^ hi ^^^ lo, 0xEF] := by
      rw [hpar, ← frameBytes_two]
      exact fencFn_eq_ok_iff.2 ⟨le_refl 13, rfl, rfl⟩
    have hstep : contextStep Config.params i s = .next (buildStep Config.params trig i 13 (trackParams n)
        (fun f => .rsPost trig f tmo n) s) := by
      simp only [contextStep, ht]
    obtain ⟨htask, hma, hline, -, hfe⟩ := buildStep_builds hf trig i (fun f => .rsPost trig f tmo n) s
    exact ⟨hi, lo, _, hsum, (runEvent_hostStep hm hp).trans hstep, hma, hline, htask, hfe⟩
  · intro ht hv y ends
    have hends : ∀ {x}, s.Reads Config.params i x → ends (selectResult n x) := fun {x} hx => by
      obtain ⟨u, hu, hread⟩ := replyStep_of_reads hx hv fun y s => finishSeq Config.params trig i (selectResult n y) s
      have hstep : contextStep Config.params i s = .next (finishSeq Config.params trig i (selectResult n x) u) := by
        simpa only [contextStep, ht] using hread
      refine ⟨_, (runEvent_hostStep hm hp).trans hstep, finishSeq_taskOf_same .., finishSeq_resultOf_same .., ?_, ?_⟩ <;>
        (rw [hu]; rfl)
    refine ⟨fun hf => hends (.fault hf), fun hf hfit => ?_⟩
    have hreply : ∀ {x}, y = x → s.Reads Config.params i x := fun hx => hx ▸ .reply hf hfit
    exact ⟨fun e h => hends (hreply h), fun v h => hends (hreply h), fun rest h => hends (hreply h)⟩

/-! ### TRIGGER (R267, R268, R276) -/

/-- Where TRIGGER goes after GETSTATE: to RANDOMPLAY from CUSTOM and PAUSED, else to its exit (R267). -/
def afterState (tmo : Nat) : Except Err PlayState → HostPc
  | .ok p => if mayPlay p then .rqStart tmo else .trigExit
  | .error _ => .trigExit

/-- Inside TRIGGER, GETSTATE's reading of the reply is the result, and says where to go. -/
theorem stateEnd_in_trigger (c : Params) (i tmo : Nat) (y : Except Err Reply) (s : State) :
    stateEnd c true i tmo y s
      = (s.setResult i (playStateResult (stateResult y))).setTask c i (afterState tmo (stateResult y)) := by
  unfold stateEnd
  cases stateResult y with
  | error e => rfl
  | ok p => cases p <;> rfl

/-- A disabled interrupt is not taken (R268), nor is any during an interrupt freeze (R276). -/
theorem takeTrigger_of_not {c : Params} {s : State} (h : s.host.trigIrqEnable = false ∨ s.wd.irqFrozen = true) :
    takeTrigger c s = s :=
  if_neg (by rcases h with h | h <;> simp [h, State.mayRun_handler])

/-- An enabled interrupt whose context is free is taken: it disables itself, and GETSTATE begins (R267). -/
theorem takeTrigger_of_enabled {c : Params} {s : State} (he : s.host.trigIrqEnable = true)
    (hedge : s.host.edgePending = true) (hfree : s.ctxFree c.trigReq = true) (hf : s.wd.irqFrozen = false) :
    takeTrigger c s = buildStep c true c.trigReq 9 [] (fun f => .gsPost true f c.trigTmo)
      ((s.withHost { s.host with trigIrqEnable := false, edgePending := false }).setResult c.trigReq .none) :=
  if_pos (by simp [he, hedge, hfree, hf, State.mayRun_handler])

/-- An edge that finds the interrupt enabled waits to be taken. -/
theorem edgeArrives_of_enabled {s : State} (h : s.host.trigIrqEnable = true) :
    edgeArrives s = s.withHost { s.host with edgePending := true } :=
  if_pos h

/-- An edge changes neither FE, the contexts nor the interrupt's enable. -/
theorem edgeArrives_keeps (s : State) : (edgeArrives s).fe = s.fe ∧ (edgeArrives s).host.task = s.host.task
    ∧ (edgeArrives s).host.trigIrqEnable = s.host.trigIrqEnable := by
  unfold edgeArrives
  split <;> exact ⟨rfl, rfl, rfl⟩

/-- An edge that finds the interrupt enabled, its context free and no freeze on disables the interrupt and begins GETSTATE
(R267). -/
theorem takeTrigger_after_edge {c : Params} {s : State} (he : s.host.trigIrqEnable = true)
    (hfree : s.ctxFree c.trigReq = true) (hf : s.wd.irqFrozen = false) :
    let t := takeTrigger c (edgeArrives s)
    let f := [0x7E, 0x03, c.codeQstate, 0x03 ^^^ c.codeQstate, 0xEF]
    t.host.trigIrqEnable = false ∧ t.taskOf c.trigReq = .gsPost true f c.trigTmo
      ∧ t.fe = ⟨f ++ s.fe.fbuf.drop 5, 5, .noError, .frame f⟩ := by
  intro t f
  let asked := ((s.withHost { s.host with edgePending := true }).withHost
    { s.host with trigIrqEnable := false, edgePending := false }).setResult c.trigReq .none
  have ht : t = buildStep c true c.trigReq 9 [] (fun f => .gsPost true f c.trigTmo) asked :=
    (congrArg (takeTrigger c) (edgeArrives_of_enabled he)).trans (takeTrigger_of_enabled he rfl hfree hf)
  have hq : fencFn c 9 [] = .ok f := fencFn_query rfl
  obtain ⟨htask, -, -, hirq, hfe⟩ := buildStep_builds hq true c.trigReq (fun f => .gsPost true f c.trigTmo) asked
  rw [ht]
  exact ⟨hirq, htask, hfe⟩

/-- Settles O53: the interrupt is taken or not; after GETSTATE the handler goes where `afterState` says. -/
theorem triggerPolicy : Obligations.TriggerPolicy := by
  intro s i f y goes
  have hnext : ∀ {t}, s.wd.irqFrozen = false → (s.reqOf i).pending = false →
      contextStep Config.params i s = .next t → runEvent (.hostStep i) s = .next t := fun hf hp hstep =>
    (runEvent_hostStep (by rw [State.mayRun_handler, hf]; rfl) hp).trans hstep
  refine ⟨⟨_, rfl, ?_, ?_, fun he hfree hf => takeTrigger_after_edge he hfree hf, fun h => ?_⟩, fun hf => ⟨?_, ?_⟩,
    fun tmo hf hp ht hv => ?_, fun tmo hf hp ht => ?_, fun hf hp ht => ?_⟩
  -- the interrupt
  · exact (takeTrigger_ma ..).1.trans (edgeArrives_ma s).1
  · exact (takeTrigger_ma ..).2.trans (edgeArrives_ma s).2
  · obtain ⟨hfe, htask, hirq⟩ := edgeArrives_keeps s
    rw [takeTrigger_of_not (by rwa [hirq, edgeArrives_wd])]
    exact ⟨hirq, htask, hfe⟩
  -- the freeze
  · exact congrArg Host.Outcome.next (takeTrigger_of_not (.inr hf))
  · exact hostStep_waits (.inl (by rw [State.mayRun_handler, hf]; rfl))
  -- after GETSTATE
  · have hgoes : ∀ {x}, s.Reads Config.params i x →
        goes (playStateResult (stateResult x)) (afterState tmo (stateResult x)) := fun {x} hx => by
      obtain ⟨u, hu, hread⟩ := replyStep_of_reads hx hv (stateEnd Config.params true i tmo)
      have hstep : contextStep Config.params i s = .next (stateEnd Config.params true i tmo x u) := by
        simpa only [contextStep, ht] using hread
      rw [stateEnd_in_trigger] at hstep
      refine ⟨_, hnext hf hp hstep, State.setTask_taskOf_same .., State.setResult_resultOf_same .., ?_, ?_, ?_⟩ <;>
        (rw [hu]; rfl)
    refine ⟨fun herr => hgoes (.fault herr), fun herr hfit => ?_⟩
    have hdecoded : ∀ {x}, y = x → goes (playStateResult (stateResult x)) (afterState tmo (stateResult x)) := fun hx =>
      hgoes (hx ▸ .reply herr hfit)
    refine ⟨fun e h => hdecoded h, fun rest h => hdecoded h, fun h => hdecoded h, fun h => hdecoded h, fun h => hdecoded h,
      fun h => hdecoded h, fun h => hdecoded h, fun v hlt h => ?_⟩
    have hshape := hdecoded h
    rwa [stateResult, playStateOf_eq_none hlt] at hshape
  -- RANDOMPLAY
  · obtain ⟨htask, hma, hline, hirq, hfe⟩ := buildStep_builds (c := Config.params) (sel := 10) (fencFn_query rfl) true i
      (fun f => .rqPost true f tmo 0) s
    exact ⟨_, hnext hf hp (by simp only [contextStep, ht]), hma, hline, hirq, htask, hfe⟩
  -- the exit
  · have hstep : contextStep Config.params i s
        = .next ((s.withHost { s.host with trigIrqEnable := true }).setTask Config.params i .idle) := by
      simp only [contextStep, ht]
    exact ⟨_, hnext hf hp hstep, State.setTask_taskOf_same .., rfl, rfl, rfl, rfl⟩

end Sys2Proof.Machine
end

section
/-! WeightReplyService (spec/44_host_sequences.md R270 to R273; log 21, log 22, log 44): each step of its loop, what all but the read
leave alone, and its turn for one burst: the way to the verdict, and the way from a READ_WEIGHT to the reply. -/

namespace Sys2Proof.Machine

/-! ### Runs in two parts -/

/-- A run that completes is followed by the rest of the events. -/
theorem runEvents_append {as : List Ev} (bs : List Ev) {s t : State} (h : runEvents as s = .next t) :
    runEvents (as ++ bs) s = runEvents bs t := by
  induction as generalizing s with
  | nil => cases h; rfl
  | cons e as ih =>
    cases he : runEvent e s with
    | next u => rw [runEvents_cons as he] at h; rw [List.cons_append, runEvents_cons _ he, ih h]
    | fault f => simp [runEvents, he] at h
    | refused r => simp [runEvents, he] at h

/-! ### The steps of the loop (R270) -/

/-- What the steps of the loop change, the read apart. -/
def ServiceOnly (s t : State) : Prop := t = { s with
  he := t.he, hd := t.hd, freeCtr := t.freeCtr, bridge := { s.bridge with tx := t.bridge.tx }
  host := { s.host with service := t.host.service, running := t.host.running } }

theorem ServiceOnly.trans {s t u : State} (h : ServiceOnly s t) (h' : ServiceOnly t u) : ServiceOnly s u := by
  unfold ServiceOnly at h h' ⊢
  rw [h', h]

/-- The task that has the processor takes its next step (R273). -/
theorem runEvent_serve {s : State} (h : s.host.running = some .weightReply) :
    runEvent .serve s = serviceBody Config.params s :=
  if_pos (by simp [State.serviceMayRun, State.processor, h])

theorem ServicePc.waits_iff {pc : ServicePc} : pc.waits = true ↔ pc = .off ∨ pc = .atRead := by
  cases pc <;> simp [ServicePc.waits]

/-- A task that waits is at the read once it is started. -/
theorem startService_of_waits {s : State} (h : s.host.service.waits = true) :
    startService s = { s with host := { s.host with service := .atRead } } := by
  obtain hoff | hread := ServicePc.waits_iff.1 h
  · exact if_pos hoff
  · have hsame : startService s = s := if_neg (by simp [hread])
    rw [hsame, ← hread]

/-- A task that waits, and may run, reads the bridge line with its next step. -/
theorem exec_wserve_of_mayRun {s : State} (hm : s.serviceMayRun = true) (hw : s.host.service.waits = true) :
    exec .wserve s = .next (readBurst { s with host := { s.host with service := .atRead } }) := by
  show serviceStep Config.params (startService s) = _
  rw [startService_of_waits hw]
  exact if_pos hm

/-- Only the request is the request (R206). -/
theorem hdecBytes_readWeight_iff {b : List Byte} : hdecBytes b = .ok .readWeight ↔ b = [0x01, 0x01, 0x01, 0x03] := by
  constructor
  · intro h
    unfold hdecBytes at h
    split at h; · cases h
    split at h; · cases h
    split at h
    · next hreq => exact hreq
    · cases h
  · rintro rfl
    rfl

/-- HEXLIFY's text of the request, and of nothing else, leads to the sensor (R206, R270). -/
theorem afterVerdict_hexText (hc : HexCase) (b : List Byte) :
    afterVerdict (hdecFn (hexText hc b)) = if b = [0x01, 0x01, 0x01, 0x03] then .weigh else .atRead := by
  rw [(spells_hexText hc b).hdecFn_eq]
  simp only [← hdecBytes_readWeight_iff]
  rcases hdecBytes b with e | (_ | _) <;> rfl

section

variable {s : State} {b : List Byte} (hr : s.host.running = some .weightReply)
include hr

/-- A burst that has been read is spelled in hex text, which is HE's and writes no buffer of it. -/
theorem runEvent_serve_burst (hs : s.host.service = .burst b) : runEvent .serve s
    = .next ((hexlifyOp Config.params b s).setService (.text (hexText Config.params.hexCase b))) := by
  rw [runEvent_serve hr]
  simp only [serviceBody, hs]

/-- From a burst to its verdict: HEXLIFY and HDEC. -/
theorem serve_to_verdict (hs : s.host.service = .burst b)
    (hfit : fits Config.params.txtMax (hexText Config.params.hexCase b) = true) :
    ∃ t, runEvents [.serve, .serve] s = .next t ∧ ServiceOnly s t
      ∧ t.host.service = (if b = [0x01, 0x01, 0x01, 0x03] then .weigh else .atRead)
      ∧ t.host.running = (if b = [0x01, 0x01, 0x01, 0x03] then some .weightReply else none)
      ∧ t.he.hvalid = s.he.hvalid ∧ t.bridge.tx = s.bridge.tx ∧ t.freeCtr = s.freeCtr := by
  let x := hexText Config.params.hexCase b
  let u := (hexlifyOp Config.params b s).setService (.text x)
  have hu : u.host.running = some .weightReply := rfl
  have hstep : runEvent .serve u = .next ((hdecOp x u).setService (afterVerdict (hdecFn x))) := by
    rw [runEvent_serve hu]
    exact if_pos hfit
  have hd := hdecOp_only x u
  refine ⟨_, (runEvents_cons _ (runEvent_serve_burst hr hs)).trans (runEvents_single _ hstep), ?_, ?_, ?_, ?_, ?_, ?_⟩
  · rw [ServiceOnly, hd]; rfl
  · exact afterVerdict_hexText _ b
  · rw [State.setService_host_running, afterVerdict_hexText, hd]
    show schedule .weightReply _ u.host.running = _
    rw [hu]
    split <;> rfl
  all_goals rw [hd]; rfl

/-- A burst whose text does not fit is refused at HDEC's port (R82). -/
theorem serve_too_long (hs : s.host.service = .burst b)
    (hfit : fits Config.params.txtMax (hexText Config.params.hexCase b) = false) :
    runEvents [.serve, .serve] s = .refused .operandTooLong := by
  let x := hexText Config.params.hexCase b
  let u := (hexlifyOp Config.params b s).setService (.text x)
  have hstep : runEvent .serve u = .refused .operandTooLong := by
    rw [runEvent_serve (s := u) rfl]
    exact if_neg (by rw [hfit]; exact Bool.false_ne_true)
  have hrest : runEvents [.serve] u = .refused .operandTooLong := by simp only [runEvents, hstep]
  exact (runEvents_cons _ (runEvent_serve_burst hr hs)).trans hrest

/-- From a READ_WEIGHT back to the read: the sensor is asked, HENC builds the reply, and its bytes are written. -/
theorem serve_reply (hs : s.host.service = .weigh) :
    ∃ t, runEvents [.serve, .serve, .serve] s = .next t ∧ ServiceOnly s t
      ∧ t.host.service = .atRead ∧ t.host.running = none ∧ t.he.hvalid = true
      ∧ t.bridge.tx = s.bridge.tx ++ hencBytes (Config.weightSensor s.freeCtr) := by
  let w := Config.weightSensor s.freeCtr
  let asked := s.useFree.setService (.weighed w)
  let built := (hencOp Config.params w asked).setService (.reply (hencBytes w))
  have hask : runEvent .serve s = .next asked := by
    rw [runEvent_serve hr]
    simp only [serviceBody, hs]
    rfl
  have hbuild : runEvent .serve asked = .next built := runEvent_serve rfl
  have hwrite : runEvent .serve built = .next
      ((built.withBridge { built.bridge with tx := built.bridge.tx ++ hencBytes w }).setService .atRead) :=
    runEvent_serve rfl
  exact ⟨_, (runEvents_cons _ hask).trans ((runEvents_cons _ hbuild).trans (runEvents_single _ hwrite)),
    rfl, rfl, rfl, rfl, rfl⟩

end

/-- Settles O54: WSERVE reads, and the loop goes to its verdict, from there to the reply or back to the read, unless HDEC's port
refuses the text. -/
theorem wserveAnswersOnlyTheRequest : Obligations.WserveAnswersOnlyTheRequest := by
  intro s started done
  refine ⟨fun hm hoff => ?_, fun hm hw => ⟨fun hrx => ?_, fun b rest hrx hb => ?_⟩⟩
  · show serviceStep Config.params (startService s) = _
    rw [startService_of_waits (by rw [hoff]; rfl)]
    exact if_neg (Bool.eq_false_iff.1 hm)
  · rw [exec_wserve_of_mayRun hm hw]
    simp only [readBurst, hrx]
    rfl
  let u := { s with
    bridge := { s.bridge with rx := rest }
    host := { s.host with service := .burst b, running := some .weightReply } }
  have hread : exec .wserve s = .next u := by
    rw [exec_wserve_of_mayRun hm hw]
    have hempty : b.isEmpty = false := by simpa using hb
    simp only [readBurst, hrx, hempty]
    rfl
  refine ⟨u, hread, rfl, fun hfit hreq => ?_, fun hfit hreq => ?_, fun m hmax hlen => ?_⟩
  · obtain ⟨v, hv, honly, hservice, hrun, -, htx, hctr⟩ := serve_to_verdict (s := u) rfl rfl hfit
    rw [if_pos hreq] at hservice hrun
    obtain ⟨t, ht, honly', hservice', hrun', hvalid, htx'⟩ := serve_reply hrun hservice
    rw [htx, hctr] at htx'
    exact ⟨t, (runEvents_append [.serve, .serve, .serve] hv).trans ht, ⟨hservice', hrun', honly.trans honly'⟩, hvalid, htx'⟩
  · obtain ⟨t, ht, honly, hservice, hrun, hvalid, htx, -⟩ := serve_to_verdict (s := u) rfl rfl hfit
    rw [if_neg hreq] at hservice hrun
    exact ⟨t, ht, ⟨hservice, hrun, honly⟩, hvalid, htx⟩
  · exact serve_too_long (s := u) rfl rfl (by rw [hmax, fits_eq_false hlen])

end Sys2Proof.Machine
end

section
/-! A reset of the device, from any state (spec/70_reset_and_hazards.md R321, R322; log 25): the slots it leaves, and what it leaves
of the line and of the tick count. -/

namespace Sys2Proof.Machine

section

variable (c : Params) (s : State)

@[simp] theorem deviceReset_ma : (deviceReset c s).ma = State.reset.ma := rfl
@[simp] theorem deviceReset_reqOf (i : Nat) : (deviceReset c s).reqOf i = ReqSlot.reset := rfl
@[simp] theorem deviceReset_resOf (i : Nat) : (deviceReset c s).resOf i = ResSlot.reset := rfl

/-- Of the bytes pushed some prefix leaves on the wire; the rest is lost (X6). -/
theorem deviceReset_wire : ∃ sent, sent <+: s.line.txq ∧ (deviceReset c s).line.wire = s.line.wire ++ sent :=
  ⟨_, List.take_prefix .., rfl⟩

/-- Whatever value `NOW` takes, it has `TICK_W` bits (X4). -/
theorem deviceReset_now_lt : (deviceReset c s).now < 2 ^ c.tickW := Nat.mod_lt _ (Nat.two_pow_pos _)

end

/-- Settles O45: the event is the device's reset, whose units, MA and empty slots are those of `State.reset`; of the old line only
the bytes on the wire and a prefix of the transmit path are left. -/
theorem deviceResetDropsTransaction : Obligations.DeviceResetDropsTransaction := by
  intro s
  have hslots : ∀ i, ((deviceReset Config.params s).reqOf i).pending = false
      ∧ ((deviceReset Config.params s).resOf i).valid = false := by
    simp [ReqSlot.reset, ResSlot.reset]
  exact ⟨deviceReset Config.params s, rfl, rfl, rfl, rfl, rfl, rfl, rfl, deviceReset_ma .., rfl, rfl,
    deviceReset_wire .., deviceReset_now_lt .., hslots⟩

end Sys2Proof.Machine
end
